-- ==== Sys2Proof/Word.lean ====
section
/-! DEFINITION. The word types of Coz502 (`00_scope.md` R4). -/

namespace Sys2Proof

/-- A byte: a general register, a memory byte, an operand byte (R4). -/
abbrev Byte := BitVec 8

/-- A 16-bit value: a register pair, a 16-bit datum (R4). -/
abbrev Word := BitVec 16

/-- A 16-bit address; its arithmetic wraps modulo 65536 (`20_memory.md` R46). -/
abbrev Addr := BitVec 16

end Sys2Proof
end

