-- ==== Sys2Proof/Machine/Bytes.lean ====
section
/-! DEFINITION. Byte order: how two bytes make a 16-bit value, and a 16-bit value two bytes. -/

namespace Sys2Proof

/-- `hi : lo`, the first byte being bits 15:8 (`00_scope.md` R6, `30_encoding.md` R31; for data and pairs the
spec's decisions D5 and D6, entries 16 and 17). -/
def catBytes (hi lo : Byte) : Word := hi ++ lo

/-- Bits 15:8. -/
def hiByte (w : Word) : Byte := w.extractLsb' 8 8

/-- Bits 7:0. -/
def loByte (w : Word) : Byte := w.extractLsb' 0 8

/-- Byte k, counted from the least significant, of an instruction's bits given as one number. -/
def byteOfBits (w k : Nat) : Byte := BitVec.ofNat 8 (w / 2 ^ (8 * k))

end Sys2Proof
end

