-- ==== Sys2Proof/Config.lean ====
section
/-! DEFINITION. The implementation parameters of `00_scope.md` R4 as plain data, and the constants without a
body that stand for values nobody states. The parameters' defaults are in `Machine/Parameters.lean`. -/

namespace Sys2Proof

/-- The eight 8-bit general registers, in the source's listing order (`10_state.md` R10). -/
inductive Reg8 where
  | a | b | c | d | e | f | g | h
deriving DecidableEq, Repr

/-- The four register pairs (`10_state.md` R11). -/
inductive Reg16 where
  | ab | cd | ef | gh
deriving DecidableEq, Repr

/-- The four source addressing modes (`30_encoding.md` R54 to R57). -/
inductive SrcMode where
  | imm | abs | ind | reg
deriving DecidableEq, Repr

/-- The three destination addressing modes of MOV and MOVX (`42_data_memory.md` R160). -/
inductive DstMode where
  | abs | ind | reg
deriving DecidableEq, Repr

/-- One of the twelve forms of MOV, or of MOVX: a source mode and a destination mode (R160). -/
structure MovForm where
  src : SrcMode
  dst : DstMode
deriving DecidableEq, Repr

/-- The four arithmetic operations (`40_arithmetic_logic.md` R100). -/
inductive AluOp where
  | add | sub | mul | div
deriving DecidableEq, Repr

/-- Parameter `SWP_NZ`: which value N and Z report after SWP (`42_data_memory.md` R186). -/
inductive SwpNz where
  /-- The new value of the first operand. -/
  | r1
  /-- The new value of the second operand. -/
  | r2
  /-- The default: both flags are drawn. -/
  | any
deriving DecidableEq, Repr

/-- Parameter `FLAGS_ARITH`: the functions that give C and O (`00_scope.md` R4). -/
inductive FlagsArith where
  /-- The default: the formulas of `40_arithmetic_logic.md` R101 to R104. -/
  | formulas
  /-- Functions nobody states: `Config.otherCarryOverflow` and `Config.otherDivNegativeZero`. -/
  | other
deriving DecidableEq, Repr

/-- What parameter `MEM_MAP` may say of an address (`00_scope.md` R4). -/
inductive MemKind where
  /-- Plain read-write memory (`20_memory.md` R30). -/
  | ram
  /-- No memory answers there. -/
  | absent
  /-- A device whose behaviour no source gives (`20_memory.md` R38). -/
  | device
deriving DecidableEq, Repr

/-- A stretch of addresses, both ends included, that `MEM_MAP` says is not RAM (or is). -/
structure Region where
  first : Addr
  last  : Addr
  kind  : MemKind
deriving DecidableEq, Repr

/-- The parameters of `00_scope.md` R4, fixed for a run. `INIT` is `Machine.Init`. -/
structure Config where
  /-- `REGCODE8`: a partial map from an operand byte to a register (`30_encoding.md` R59). -/
  regCode8 : List (Byte × Reg8)
  /-- `REGCODE16`: a partial map from an operand byte to a pair (R59). -/
  regCode16 : List (Byte × Reg16)
  /-- `MOV_OPCODES` for MOV: the form of cell 0x30 + k is entry k (R60). -/
  movForms : List MovForm
  /-- `MOV_OPCODES` for MOVX: the form of cell 0x40 + k is entry k (R60). -/
  movxForms : List MovForm
  /-- `SWP_NZ` (R186). -/
  swpNz : SwpNz
  /-- `FLAGS_ARITH` (R22, R23). -/
  flagsArith : FlagsArith
  /-- `DIV_SIGNED` (`40_arithmetic_logic.md` R104). -/
  divSigned : Bool
  /-- `MEM_MAP` (R30, R39): the first region that holds an address says its kind; an address of no
  region is RAM. -/
  memMap : List Region
deriving DecidableEq, Repr

/-- The n-th flag drawn by SWP under `SWP_NZ = any` (R186): a FREE VALUE, entry 9. -/
opaque Config.drawnFlag : Nat → Bool

/-- C and O under `FLAGS_ARITH = other`, a function of the operation, the width and the two operands:
a FREE VALUE, entry 10. -/
opaque Config.otherCarryOverflow : AluOp → Nat → Nat → Nat → Bool × Bool

/-- N and Z of a division under `FLAGS_ARITH = other` (`93_implementation_defined.md` U10), a function of the
width and the two operands: a FREE VALUE, entry 40. -/
opaque Config.otherDivNegativeZero : Nat → Nat → Nat → Bool × Bool

end Sys2Proof
end

