-- ==== Sys2Proof/Machine/Parameters.lean ====
section
/-! DEFINITION. The defaults of the parameters of `00_scope.md` R4, how a parameter is looked up, and the model's
choice of `INIT` at reset. -/

namespace Sys2Proof

/-- The default `REGCODE8` (`30_encoding.md` R59): A..H are 0x00..0x07. UNVERIFIED, unsafe: decision D2, entry 7. -/
def defaultRegCode8 : List (Byte × Reg8) :=
  [(0x00, .a), (0x01, .b), (0x02, .c), (0x03, .d), (0x04, .e), (0x05, .f), (0x06, .g), (0x07, .h)]

/-- The default `REGCODE16` (R59): AB, CD, EF, GH are 0x00..0x03. UNVERIFIED, unsafe: decision D2, entry 7. -/
def defaultRegCode16 : List (Byte × Reg16) :=
  [(0x00, .ab), (0x01, .cd), (0x02, .ef), (0x03, .gh)]

/-- The twelve forms in the order of the source's table (`30_encoding.md` R60): per destination the four sources.
UNVERIFIED, unsafe: decision D1, entry 8. -/
def defaultMovForms : List MovForm :=
  [⟨.imm, .abs⟩, ⟨.abs, .abs⟩, ⟨.ind, .abs⟩, ⟨.reg, .abs⟩,
   ⟨.imm, .ind⟩, ⟨.abs, .ind⟩, ⟨.ind, .ind⟩, ⟨.reg, .ind⟩,
   ⟨.imm, .reg⟩, ⟨.abs, .reg⟩, ⟨.ind, .reg⟩, ⟨.reg, .reg⟩]

/-- The default of every parameter (`00_scope.md` R4). -/
def Config.default : Config where
  regCode8 := defaultRegCode8
  regCode16 := defaultRegCode16
  movForms := defaultMovForms
  movxForms := defaultMovForms
  swpNz := .any
  flagsArith := .formulas
  divSigned := false
  memMap := []

/-- The register an operand byte of an 8-bit form names, if any (R59). -/
def Config.reg8 (cfg : Config) (b : Byte) : Option Reg8 := cfg.regCode8.lookup b

/-- The pair an operand byte of an X form names, if any (R59). -/
def Config.reg16 (cfg : Config) (b : Byte) : Option Reg16 := cfg.regCode16.lookup b

/-- Whether a region of `MEM_MAP` holds an address. -/
def Region.holds (r : Region) (a : Addr) : Bool := r.first.toNat ≤ a.toNat && a.toNat ≤ r.last.toNat

/-- What `MEM_MAP` says of an address (`20_memory.md` R30, R39). -/
def Config.kindAt (cfg : Config) (a : Addr) : MemKind :=
  match cfg.memMap.find? (fun r => r.holds a) with
  | some r => r.kind
  | none => .ram

/-- A general register at reset. DESIGN CHOICE, unsafe: `INIT.x` is open (`70_reset_and_hazards.md` R220), entry 1. -/
def resetRegister : Byte := 0x00

/-- PC at reset. DESIGN CHOICE, unsafe: `INIT.PC` is open (R221), the test programs' start address, entry 2. -/
def resetPc : Addr := 0x0200

/-- SP at reset. DESIGN CHOICE, unsafe: `INIT.SP` is open (R220), the test programs' value, entry 3. -/
def resetSp : Addr := 0x00FF

/-- A flag at reset. DESIGN CHOICE, unsafe: the flags of `INIT` are open (R220), entry 4. -/
def resetFlag : Bool := false

/-- What an address that memory does not list reads as. DESIGN CHOICE, unsafe: `INIT.Mem` is open (R220),
entry 5. -/
def unlistedByte : Byte := 0x00

end Sys2Proof
end

