-- ==== Sys2Proof/Machine/State.lean ====
section
/-! DEFINITION. The state of the machine as plain data (`10_state.md`), the reasons a step can stop, `INIT` and the
state after reset. -/

namespace Sys2Proof.Machine

/-- The eight general registers A to H (`10_state.md` R10). The pairs AB, CD, EF and GH are views of them (R11). -/
structure Regs where
  a : Byte
  b : Byte
  c : Byte
  d : Byte
  e : Byte
  f : Byte
  g : Byte
  h : Byte
deriving DecidableEq, Repr

/-- The six flags, bits 0 to 5 of the status register (R18). Bits 7 and 6 have no state (R26, entry 34). -/
structure Flags where
  z : Bool
  n : Bool
  c : Bool
  o : Bool
  p : Bool
  i : Bool
deriving DecidableEq, Repr

/-- The three faults of the machine with the byte they report (`60_exceptions.md` R200). -/
inductive FaultReason where
  | illegalOpcode (b : Byte)
  | illegalRegister (b : Byte)
  | divideByZero
deriving DecidableEq, Repr

/-- The run state (R29). `faulted` records the reason and PC, the address of the faulting opcode (R200, entry 13). -/
inductive RunState where
  | running
  | halted
  | faulted (reason : FaultReason) (pc : Addr)
deriving DecidableEq, Repr

/-- Memory: the listed (address, byte) pairs, addresses strictly rising and below 65536, no listed byte equal to what
an unlisted address reads as (`Memory.wf`). -/
abbrev Memory := List Host.Cell

/-- The whole state: the architectural state of `10_state.md`, the parameters of `00_scope.md` R4, and a counter of
the model's own. -/
structure State where
  /-- A to H (R10). -/
  regs : Regs
  /-- The stack pointer (R15). -/
  sp : Addr
  /-- The program counter: the address of the next opcode (R16). -/
  pc : Addr
  /-- Z, N, C, O, P, I (R18). -/
  flags : Flags
  /-- The 65536 bytes of memory (R28). -/
  mem : Memory
  /-- The run state (R29). -/
  run : RunState
  /-- How many free flags have been drawn; the model's own field (`42_data_memory.md` R186, entry 9). -/
  draws : Nat
  /-- The parameters, fixed for the run (`00_scope.md` R4, entry 6). -/
  cfg : Config
deriving DecidableEq, Repr

/-- Why a step answers a fault outcome. The faults of R200 are no such outcome: taking one is a next state whose run
state is `faulted`. -/
inductive Fault where
  /-- Raised by `step` in a machine that HCF stopped: it has no step (R29, R150). A stuck state; safe. -/
  | halted
  /-- Raised by `step` in a machine that took a fault: it has no step (R29, R203, R205). A stuck state; safe. -/
  | faulted (reason : FaultReason) (pc : Addr)
  /-- Raised by a memory access to an address `MEM_MAP` calls absent, never under the default `MEM_MAP`
  (`20_memory.md` R39, entry 12); safe. -/
  | absentAddress (a : Addr)
deriving DecidableEq, Repr

/-- Why a step is refused. -/
inductive Refusal where
  /-- Raised by an arm of `exec` that gives its instruction no meaning; no arm does. Safe. -/
  | notModelled (mnemonic : String)
  /-- Raised by DIV and DIVX when `DIV_SIGNED` is true, which the spec gives no rules for
  (`93_implementation_defined.md` U11, entry 11); safe. -/
  | signedDivision
  /-- Raised by a memory access to an address `MEM_MAP` gives to a device, never under the default `MEM_MAP`
  (`20_memory.md` R38, entry 12); safe. -/
  | deviceAddress (a : Addr)
deriving DecidableEq, Repr

/-- The parameter `INIT`: everything the host establishes before the first step (`70_reset_and_hazards.md` R220). -/
structure Init where
  regs : Regs
  sp : Addr
  pc : Addr
  flags : Flags
  mem : Memory
deriving DecidableEq, Repr

/-- The state at the first step for any parameters and any `INIT`; the run state is `Running` (R220, R29). -/
def State.init (cfg : Config) (i : Init) : State where
  regs := i.regs
  sp := i.sp
  pc := i.pc
  flags := i.flags
  mem := i.mem
  run := .running
  draws := 0
  cfg := cfg

/-- The `INIT` the model names for reset. DESIGN CHOICE, unsafe: R220 leaves all of it open, entries 1 to 5. -/
def Init.reset : Init where
  regs := ⟨resetRegister, resetRegister, resetRegister, resetRegister,
    resetRegister, resetRegister, resetRegister, resetRegister⟩
  sp := resetSp
  pc := resetPc
  flags := ⟨resetFlag, resetFlag, resetFlag, resetFlag, resetFlag, resetFlag⟩
  mem := []

/-- The machine right after reset: `INIT` as the model names it, the default parameters, run state `Running`. -/
def State.reset : State := State.init Config.default Init.reset

end Sys2Proof.Machine
end

