-- ==== Sys2Proof/Machine/Ops.lean ====
section
/-! DEFINITION. The named operations over registers, memory, PC and the run state, and taking a fault. -/

namespace Sys2Proof.Machine

/-! ## Registers (`10_state.md` R10 to R12) -/

/-- `x[i]`. -/
def Regs.get (r : Regs) : Reg8 → Byte
  | .a => r.a
  | .b => r.b
  | .c => r.c
  | .d => r.d
  | .e => r.e
  | .f => r.f
  | .g => r.g
  | .h => r.h

/-- `x[i] <- v`. -/
def Regs.set (r : Regs) (i : Reg8) (v : Byte) : Regs :=
  match i with
  | .a => { r with a := v }
  | .b => { r with b := v }
  | .c => { r with c := v }
  | .d => { r with d := v }
  | .e => { r with e := v }
  | .f => { r with f := v }
  | .g => { r with g := v }
  | .h => { r with h := v }

/-- The first-named register of a pair, bits 15:8 (R12). UNVERIFIED, unsafe: decision D5, entry 16. -/
def pairHigh : Reg16 → Reg8
  | .ab => .a
  | .cd => .c
  | .ef => .e
  | .gh => .g

/-- The second-named register of a pair, bits 7:0 (R12). -/
def pairLow : Reg16 → Reg8
  | .ab => .b
  | .cd => .d
  | .ef => .f
  | .gh => .h

/-- `xx[j]` (R12). -/
def Regs.getPair (r : Regs) (j : Reg16) : Word := catBytes (r.get (pairHigh j)) (r.get (pairLow j))

/-- `xx[j] <- v`: both halves are written (R11). -/
def Regs.setPair (r : Regs) (j : Reg16) (v : Word) : Regs :=
  (r.set (pairHigh j) (hiByte v)).set (pairLow j) (loByte v)

/-! ## Memory (`20_memory.md` R30 to R35, R46) -/

/-- The byte a list of cells holds at an address. -/
def Memory.readAt : Memory → Nat → Byte
  | [], _ => unlistedByte
  | (k, v) :: m, a => if k = a then v else Memory.readAt m a

/-- A list of cells without the entries of one address. -/
def Memory.erase (m : Memory) (a : Nat) : Memory := m.filter (fun c => c.1 != a)

/-- A cell put before the first cell of a higher address. -/
def Memory.insert : Memory → Nat → Byte → Memory
  | [], a, v => [(a, v)]
  | (k, w) :: m, a, v => if a < k then (a, v) :: (k, w) :: m else (k, w) :: Memory.insert m a v

/-- `Mem[a]` (R30). -/
def Memory.read (m : Memory) (a : Addr) : Byte := Memory.readAt m a.toNat

/-- `Mem[a] <- v`: that byte and nothing else (R30). The list stays in its one canonical form. -/
def Memory.write (m : Memory) (a : Addr) (v : Byte) : Memory :=
  if v = unlistedByte then Memory.erase m a.toNat else Memory.insert (Memory.erase m a.toNat) a.toNat v

/-- `MemRead(a, 2)`: the byte at a is bits 15:8 (R32, R33); a + 1 wraps (R46). UNVERIFIED, unsafe: decisions D6 and
D8, entries 17 and 19. -/
def Memory.read16 (m : Memory) (a : Addr) : Word := catBytes (m.read a) (m.read (a + 1))

/-- `MemWrite(a, 2, v)`: the high byte at a first, then the low byte at a + 1 (R34). -/
def Memory.write16 (m : Memory) (a : Addr) (v : Word) : Memory :=
  (m.write a (hiByte v)).write (a + 1) (loByte v)

/-- The canonical form: addresses strictly rising and below 65536, no listed byte equal to the unlisted one. -/
def Memory.wf (m : Memory) : Bool :=
  decide (m.Pairwise (fun x y => x.1 < y.1)) && m.all (fun c => decide (c.1 < 65536) && c.2 != unlistedByte)

/-! ## Taking a fault (`60_exceptions.md` R200 to R205) -/

/-- Why an instruction does not complete; every such check comes before its first write (`00_scope.md` R7). -/
inductive Stop where
  /-- A fault of R200 is raised. -/
  | raise (r : FaultReason)
  /-- The step ends in a fault outcome. -/
  | fault (f : Fault)
  /-- The step is refused. -/
  | refuse (r : Refusal)
deriving DecidableEq, Repr

/-- Fault entry (R203): the run state becomes `Faulted(reason, info)`; no register, flag, SP, PC or memory byte
changes. Nothing is saved and control goes nowhere. There is no return from a fault (R205), so none is defined. -/
def State.takeFault (s : State) (r : FaultReason) : State := { s with run := .faulted r s.pc }

/-- The outcome of an instruction that does not complete. -/
def State.stop (s : State) : Stop → Host.Outcome State Fault Refusal
  | .raise r => .next (s.takeFault r)
  | .fault f => .fault f
  | .refuse r => .refused r

/-- The outcome of an instruction: the state it leaves, or what its stop answers. -/
def State.finish (s : State) : Except Stop State → Host.Outcome State Fault Refusal
  | .ok t => .next t
  | .error e => s.stop e

/-! ## Updates of the state -/

/-- `PC <- (pc0 + n) mod 65536` (`10_state.md` R17). -/
def State.advance (s : State) (n : Addr) : State := { s with pc := s.pc + n }

/-- Write of an 8-bit register (R10). -/
def State.setReg8 (s : State) (r : Reg8) (v : Byte) : State := { s with regs := s.regs.set r v }

/-- Write of a register pair (R11). -/
def State.setReg16 (s : State) (r : Reg16) (v : Word) : State := { s with regs := s.regs.setPair r v }

/-- Write of SP (R15). -/
def State.setSp (s : State) (a : Addr) : State := { s with sp := a }

/-- Write of the flags (R18). -/
def State.setFlags (s : State) (f : Flags) : State := { s with flags := f }

/-- Write of memory (R30). -/
def State.setMem (s : State) (m : Memory) : State := { s with mem := m }

/-- Count n more drawn flags (entry 9). -/
def State.addDraws (s : State) (n : Nat) : State := { s with draws := s.draws + n }

/-- `run <- Halted` (`41_control_flow.md` R150). -/
def State.halt (s : State) : State := { s with run := .halted }

/-! ## Memory accesses under `MEM_MAP` (`20_memory.md` R37 to R40) -/

/-- Whether an address may be accessed. Under the default `MEM_MAP` every access succeeds (R40, `60_exceptions.md`
R200). A nondefault map may stop it: DESIGN CHOICE, safe, entry 12. -/
def State.access (s : State) (a : Addr) : Except Stop Unit :=
  match s.cfg.kindAt a with
  | .ram => .ok ()
  | .absent => .error (.fault (.absentAddress a))
  | .device => .error (.refuse (.deviceAddress a))

/-- Whether the n bytes from a on may be accessed, the lowest first; the address wraps (R46). -/
def State.accessFrom (s : State) (a : Addr) : Nat → Except Stop Unit
  | 0 => .ok ()
  | n + 1 => do
    s.accessFrom a n
    s.access (a + BitVec.ofNat 16 n)

/-- `MemRead(a, 1)` (R33). -/
def State.load8 (s : State) (a : Addr) : Except Stop Byte := do
  s.access a
  return s.mem.read a

/-- `MemRead(a, 2)` (R33): no alignment rule (R36). -/
def State.load16 (s : State) (a : Addr) : Except Stop Word := do
  s.accessFrom a 2
  return s.mem.read16 a

/-- `MemWrite(a, 1, v)` (R34). -/
def State.store8 (s : State) (a : Addr) (v : Byte) : Except Stop State := do
  s.access a
  return s.setMem (s.mem.write a v)

/-- `MemWrite(a, 2, v)` (R34). -/
def State.store16 (s : State) (a : Addr) (v : Word) : Except Stop State := do
  s.accessFrom a 2
  return s.setMem (s.mem.write16 a v)

end Sys2Proof.Machine
end

