-- ==== Sys2Proof/Machine/Flags.lean ====
section
/-! DEFINITION. Flag computations and the arithmetic they report on (`10_state.md` R18 to R26, `40_arithmetic_logic.md`
R101 to R104, R141). -/

namespace Sys2Proof.Machine

/-- `setNZ_w(v)`: Z is v = 0, N is bit w - 1; the other flags stay (R20, R21). UNVERIFIED, unsafe: decision D10,
entry 21. -/
def Flags.setNZ {w : Nat} (f : Flags) (v : BitVec w) : Flags := { f with z := v == 0, n := v.msb }

/-- Set C and O, leave the other flags. -/
def Flags.setCO (f : Flags) (c o : Bool) : Flags := { f with c := c, o := o }

/-- The status register as a byte, `xxIP OCNZ` (R18); `x` is what its bits 7 and 6 show, which nothing states
(R26, entry 34). -/
def Flags.statusByte (f : Flags) (x : BitVec 2) : Byte :=
  x ++ BitVec.ofBool f.i ++ BitVec.ofBool f.p ++ BitVec.ofBool f.o ++ BitVec.ofBool f.c ++ BitVec.ofBool f.n ++
    BitVec.ofBool f.z

/-- Result, carry and overflow of an operation of width w. -/
structure AluResult (w : Nat) where
  res : BitVec w
  c : Bool
  o : Bool
deriving DecidableEq, Repr

/-- The exact signed result lies outside -2^(w-1) .. 2^(w-1) - 1 (R23). -/
def signedOverflow (w : Nat) (e : Int) : Bool := decide (e < -(2 ^ (w - 1)) ∨ e > 2 ^ (w - 1) - 1)

/-- `add_w(a, d)` (R101). C and O UNVERIFIED, unsafe: decisions D11 and D12, entry 22. -/
def addW {w : Nat} (a d : BitVec w) : AluResult w where
  res := BitVec.ofNat w (a.toNat + d.toNat)
  c := decide (2 ^ w ≤ a.toNat + d.toNat)
  o := signedOverflow w (a.toInt + d.toInt)

/-- `sub_w(a, d)` (R102): C is 1 on a borrow. UNVERIFIED, unsafe: decisions D11 and D12, entry 22. -/
def subW {w : Nat} (a d : BitVec w) : AluResult w where
  res := BitVec.ofInt w ((a.toNat : Int) - (d.toNat : Int))
  c := decide (a.toNat < d.toNat)
  o := signedOverflow w (a.toInt - d.toInt)

/-- `mul_w(a, d)` (R103): the low w bits; the high half goes nowhere. UNVERIFIED, unsafe: decision D13, entry 23. -/
def mulW {w : Nat} (a d : BitVec w) : AluResult w where
  res := BitVec.ofNat w (a.toNat * d.toNat)
  c := decide (2 ^ w ≤ a.toNat * d.toNat)
  o := signedOverflow w (a.toInt * d.toInt)

/-- The quotient of `div_w(a, d)` (R104), unsigned floor division, C and O 0. UNVERIFIED, unsafe: decision D14,
entry 24. Only used for d not 0. -/
def quotW {w : Nat} (a d : BitVec w) : AluResult w where
  res := BitVec.ofNat w (a.toNat / d.toNat)
  c := false
  o := false

/-- The remainder of `div_w(a, d)` (R104). Only used for d not 0. -/
def remW {w : Nat} (a d : BitVec w) : BitVec w := BitVec.ofNat w (a.toNat % d.toNat)

/-- The operation of the arithmetic family (R100); for `div` the quotient. -/
def aluW {w : Nat} (op : AluOp) (a d : BitVec w) : AluResult w :=
  match op with
  | .add => addW a d
  | .sub => subW a d
  | .mul => mulW a d
  | .div => quotW a d

/-- The flags O, C, N, Z after ADD, SUB or MUL; P and I stay (R19, R100). Under `FLAGS_ARITH = other` C and O are
free values (entry 10). -/
def aluFlags {w : Nat} (cfg : Config) (op : AluOp) (a d : BitVec w) (f : Flags) : Flags :=
  let r := aluW op a d
  match cfg.flagsArith with
  | .formulas => (f.setNZ r.res).setCO r.c r.o
  | .other =>
    let co := Config.otherCarryOverflow op w a.toNat d.toNat
    (f.setNZ r.res).setCO co.1 co.2

/-- The flags O, C, N, Z after DIV: Z and N from the quotient, C and O 0 (R104). Under `FLAGS_ARITH = other` all four
are free values (entries 10 and 40). -/
def divFlags {w : Nat} (cfg : Config) (a d : BitVec w) (f : Flags) : Flags :=
  let r := aluW .div a d
  match cfg.flagsArith with
  | .formulas => (f.setNZ r.res).setCO r.c r.o
  | .other =>
    let co := Config.otherCarryOverflow .div w a.toNat d.toNat
    let nz := Config.otherDivNegativeZero w a.toNat d.toNat
    { (f.setCO co.1 co.2) with n := nz.1, z := nz.2 }

end Sys2Proof.Machine
end

