-- ==== Sys2Proof/Machine/Operands.lean ====
section
/-! DEFINITION. The operand forms (`30_encoding.md` R54 to R57, `42_data_memory.md` R161). -/

namespace Sys2Proof.Machine

/-- `reg8(b)`: the register an operand byte names, or `IllegalRegister(b)` (`30_encoding.md` R57, R62). -/
def State.reg8 (s : State) (b : Byte) : Except Stop Reg8 :=
  match s.cfg.reg8 b with
  | some r => .ok r
  | none => .error (.raise (.illegalRegister b))

/-- `reg16(b)`: the pair an operand byte names, or `IllegalRegister(b)` (R57, R62). -/
def State.reg16 (s : State) (b : Byte) : Except Stop Reg16 :=
  match s.cfg.reg16 b with
  | some r => .ok r
  | none => .error (.raise (.illegalRegister b))

/-- A source operand of width w. A register operand is a `ρ`: the operand byte as the instruction holds it, or the
register it names once mapped. -/
inductive Src (w : Nat) (ρ : Type) where
  /-- Immediate (R54). -/
  | imm (v : BitVec w)
  /-- Absolute (R55). -/
  | abs (a : Addr)
  /-- Indirect (R56). -/
  | ind (a : Addr)
  /-- Register (R57). -/
  | reg (r : ρ)
deriving DecidableEq, Repr

/-- A destination operand of MOV or MOVX, its register a `ρ` as in `Src`. -/
inductive Dst (ρ : Type) where
  /-- Absolute (R55). -/
  | abs (a : Addr)
  /-- Indirect (R56). -/
  | ind (a : Addr)
  /-- Register (R57). -/
  | reg (r : ρ)
deriving DecidableEq, Repr

/-- What a destination operand comes to: an address in memory, or a register of the width. -/
inductive Loc (ρ : Type) where
  | mem (a : Addr)
  | reg (r : ρ)
deriving DecidableEq, Repr

/-- The register operand of a source decoded by `m`, before any memory is read (`00_scope.md` R7). -/
def Src.decode {w : Nat} {ρ : Type} (m : Byte → Except Stop ρ) : Src w Byte → Except Stop (Src w ρ)
  | .imm v => .ok (.imm v)
  | .abs a => .ok (.abs a)
  | .ind a => .ok (.ind a)
  | .reg b => do
    let r ← m b
    return .reg r

/-- The register operand of a destination decoded by `m`, before any memory is read (R7). -/
def Dst.decode {ρ : Type} (m : Byte → Except Stop ρ) : Dst Byte → Except Stop (Dst ρ)
  | .abs a => .ok (.abs a)
  | .ind a => .ok (.ind a)
  | .reg b => do
    let r ← m b
    return .reg r

/-- `Data` of an 8-bit form (`40_arithmetic_logic.md` R100), its register decoded. Indirect reads a 16-bit pointer first
(R56, `20_memory.md` R45). UNVERIFIED, unsafe: decision D7, entry 18. -/
def Src.value8 (s : State) : Src 8 Reg8 → Except Stop Byte
  | .imm v => .ok v
  | .abs a => s.load8 a
  | .ind a => do
    let p ← s.load16 a
    s.load8 p
  | .reg r => .ok (s.regs.get r)

/-- `Data` of an X form (R100), its register decoded. -/
def Src.value16 (s : State) : Src 16 Reg16 → Except Stop Word
  | .imm v => .ok v
  | .abs a => s.load16 a
  | .ind a => do
    let p ← s.load16 a
    s.load16 p
  | .reg r => .ok (s.regs.getPair r)

/-- Where a destination with its register decoded lies: the address written, read through the pointer for Indirect, or
the register (R161, step 4). -/
def Dst.place {ρ : Type} (s : State) : Dst ρ → Except Stop (Loc ρ)
  | .abs a => .ok (.mem a)
  | .ind a => do
    let q ← s.load16 a
    return .mem q
  | .reg r => .ok (.reg r)

/-- A source operand of an 8-bit form, decoded and then read. -/
def Src.read8 (s : State) (src : Src 8 Byte) : Except Stop Byte := do
  let o ← src.decode s.reg8
  o.value8 s

/-- A source operand of an X form, decoded and then read. -/
def Src.read16 (s : State) (src : Src 16 Byte) : Except Stop Word := do
  let o ← src.decode s.reg16
  o.value16 s

/-- A destination operand of MOV, decoded and then placed. -/
def Dst.resolve8 (s : State) (dst : Dst Byte) : Except Stop (Loc Reg8) := do
  let p ← dst.decode s.reg8
  p.place s

/-- A destination operand of MOVX, decoded and then placed. -/
def Dst.resolve16 (s : State) (dst : Dst Byte) : Except Stop (Loc Reg16) := do
  let p ← dst.decode s.reg16
  p.place s

/-- The write of MOV (R161, step 5). -/
def State.put8 (s : State) (v : Byte) : Loc Reg8 → Except Stop State
  | .mem a => s.store8 a v
  | .reg r => .ok (s.setReg8 r v)

/-- The write of MOVX (R161, step 5). -/
def State.put16 (s : State) (v : Word) : Loc Reg16 → Except Stop State
  | .mem a => s.store16 a v
  | .reg r => .ok (s.setReg16 r v)

end Sys2Proof.Machine
end

