-- ==== Sys2Proof/Machine/Arith.lean ====
section
/-! DEFINITION. The arithmetic family, opcodes 0x10 to 0x2F (`40_arithmetic_logic.md` R100 to R136). The shared
operations stand first; each instruction is one line over them, with its own operand form and length. -/

namespace Sys2Proof.Machine

/-- ADD, SUB and MUL of width 8 (R100): read Data, then write A, the flags O, C, N, Z and PC. -/
def arith8 (op : AluOp) (src : Src 8 Byte) (len : Addr) (s : State) : Host.Outcome State Fault Refusal :=
  s.finish do
    let d ← src.read8 s
    let a := s.regs.get .a
    return ((s.setReg8 .a (aluW op a d).res).setFlags (aluFlags s.cfg op a d s.flags)).advance len

/-- ADDX, SUBX and MULX of width 16 (R100): the accumulator is AB. -/
def arith16 (op : AluOp) (src : Src 16 Byte) (len : Addr) (s : State) : Host.Outcome State Fault Refusal :=
  s.finish do
    let d ← src.read16 s
    let a := s.regs.getPair .ab
    return ((s.setReg16 .ab (aluW op a d).res).setFlags (aluFlags s.cfg op a d s.flags)).advance len

/-- What stops a division after its operand is read: a signed division is refused (`93_implementation_defined.md` U11,
entry 11), a zero divisor raises DivideByZero (R104). UNVERIFIED, safe: decision D15, entry 25. -/
def divCheck (s : State) (zero : Bool) : Except Stop Unit :=
  if s.cfg.divSigned then .error (.refuse .signedDivision)
  else if zero then .error (.raise .divideByZero)
  else .ok ()

/-- DIV (R104): quotient to A, remainder to B. -/
def div8 (src : Src 8 Byte) (len : Addr) (s : State) : Host.Outcome State Fault Refusal :=
  s.finish do
    let d ← src.read8 s
    divCheck s (d == 0)
    let a := s.regs.get .a
    let t := (s.setReg8 .a (aluW .div a d).res).setReg8 .b (remW a d)
    return (t.setFlags (divFlags s.cfg a d s.flags)).advance len

/-- DIVX (R104): quotient to AB, remainder to CD. -/
def div16 (src : Src 16 Byte) (len : Addr) (s : State) : Host.Outcome State Fault Refusal :=
  s.finish do
    let d ← src.read16 s
    divCheck s (d == 0)
    let a := s.regs.getPair .ab
    let t := (s.setReg16 .ab (aluW .div a d).res).setReg16 .cd (remW a d)
    return (t.setFlags (divFlags s.cfg a d s.flags)).advance len

/-- 0x10 `ADD #oper` (R105). -/
def execAddImm (v : Byte) (s : State) : Host.Outcome State Fault Refusal :=
  arith8 .add (.imm v) 2 s

/-- 0x11 `ADD oper` (R106). -/
def execAddAbs (a : Addr) (s : State) : Host.Outcome State Fault Refusal :=
  arith8 .add (.abs a) 3 s

/-- 0x12 `ADD @oper` (R107). -/
def execAddInd (a : Addr) (s : State) : Host.Outcome State Fault Refusal :=
  arith8 .add (.ind a) 3 s

/-- 0x13 `ADD RX` (R108). -/
def execAddReg (r : Byte) (s : State) : Host.Outcome State Fault Refusal :=
  arith8 .add (.reg r) 2 s

/-- 0x14 `ADDX #oper` (R109). -/
def execAddxImm (v : Word) (s : State) : Host.Outcome State Fault Refusal :=
  arith16 .add (.imm v) 3 s

/-- 0x15 `ADDX oper` (R110). -/
def execAddxAbs (a : Addr) (s : State) : Host.Outcome State Fault Refusal :=
  arith16 .add (.abs a) 3 s

/-- 0x16 `ADDX @oper` (R111). -/
def execAddxInd (a : Addr) (s : State) : Host.Outcome State Fault Refusal :=
  arith16 .add (.ind a) 3 s

/-- 0x17 `ADDX RX` (R112). -/
def execAddxReg (r : Byte) (s : State) : Host.Outcome State Fault Refusal :=
  arith16 .add (.reg r) 2 s

/-- 0x18 `SUB #oper` (R113). -/
def execSubImm (v : Byte) (s : State) : Host.Outcome State Fault Refusal :=
  arith8 .sub (.imm v) 2 s

/-- 0x19 `SUB oper` (R114). -/
def execSubAbs (a : Addr) (s : State) : Host.Outcome State Fault Refusal :=
  arith8 .sub (.abs a) 3 s

/-- 0x1A `SUB @oper` (R115). -/
def execSubInd (a : Addr) (s : State) : Host.Outcome State Fault Refusal :=
  arith8 .sub (.ind a) 3 s

/-- 0x1B `SUB RX` (R116). -/
def execSubReg (r : Byte) (s : State) : Host.Outcome State Fault Refusal :=
  arith8 .sub (.reg r) 2 s

/-- 0x1C `SUBX #oper` (R117). -/
def execSubxImm (v : Word) (s : State) : Host.Outcome State Fault Refusal :=
  arith16 .sub (.imm v) 3 s

/-- 0x1D `SUBX oper` (R118). -/
def execSubxAbs (a : Addr) (s : State) : Host.Outcome State Fault Refusal :=
  arith16 .sub (.abs a) 3 s

/-- 0x1E `SUBX @oper` (R119). -/
def execSubxInd (a : Addr) (s : State) : Host.Outcome State Fault Refusal :=
  arith16 .sub (.ind a) 3 s

/-- 0x1F `SUBX RX` (R120). -/
def execSubxReg (r : Byte) (s : State) : Host.Outcome State Fault Refusal :=
  arith16 .sub (.reg r) 2 s

/-- 0x20 `MUL #oper` (R121). -/
def execMulImm (v : Byte) (s : State) : Host.Outcome State Fault Refusal :=
  arith8 .mul (.imm v) 2 s

/-- 0x21 `MUL oper` (R122). -/
def execMulAbs (a : Addr) (s : State) : Host.Outcome State Fault Refusal :=
  arith8 .mul (.abs a) 3 s

/-- 0x22 `MUL @oper` (R123). -/
def execMulInd (a : Addr) (s : State) : Host.Outcome State Fault Refusal :=
  arith8 .mul (.ind a) 3 s

/-- 0x23 `MUL RX` (R124). -/
def execMulReg (r : Byte) (s : State) : Host.Outcome State Fault Refusal :=
  arith8 .mul (.reg r) 2 s

/-- 0x24 `MULX #oper` (R125). -/
def execMulxImm (v : Word) (s : State) : Host.Outcome State Fault Refusal :=
  arith16 .mul (.imm v) 3 s

/-- 0x25 `MULX oper` (R126). -/
def execMulxAbs (a : Addr) (s : State) : Host.Outcome State Fault Refusal :=
  arith16 .mul (.abs a) 3 s

/-- 0x26 `MULX @oper` (R127). -/
def execMulxInd (a : Addr) (s : State) : Host.Outcome State Fault Refusal :=
  arith16 .mul (.ind a) 3 s

/-- 0x27 `MULX RX` (R128). -/
def execMulxReg (r : Byte) (s : State) : Host.Outcome State Fault Refusal :=
  arith16 .mul (.reg r) 2 s

/-- 0x28 `DIV #oper` (R129). -/
def execDivImm (v : Byte) (s : State) : Host.Outcome State Fault Refusal :=
  div8 (.imm v) 2 s

/-- 0x29 `DIV oper` (R130). -/
def execDivAbs (a : Addr) (s : State) : Host.Outcome State Fault Refusal :=
  div8 (.abs a) 3 s

/-- 0x2A `DIV @oper` (R131). -/
def execDivInd (a : Addr) (s : State) : Host.Outcome State Fault Refusal :=
  div8 (.ind a) 3 s

/-- 0x2B `DIV RX` (R132). -/
def execDivReg (r : Byte) (s : State) : Host.Outcome State Fault Refusal :=
  div8 (.reg r) 2 s

/-- 0x2C `DIVX #oper` (R133). -/
def execDivxImm (v : Word) (s : State) : Host.Outcome State Fault Refusal :=
  div16 (.imm v) 3 s

/-- 0x2D `DIVX oper` (R134). -/
def execDivxAbs (a : Addr) (s : State) : Host.Outcome State Fault Refusal :=
  div16 (.abs a) 3 s

/-- 0x2E `DIVX @oper` (R135). -/
def execDivxInd (a : Addr) (s : State) : Host.Outcome State Fault Refusal :=
  div16 (.ind a) 3 s

/-- 0x2F `DIVX RX` (R136). -/
def execDivxReg (r : Byte) (s : State) : Host.Outcome State Fault Refusal :=
  div16 (.reg r) 2 s

end Sys2Proof.Machine
end

