-- ==== Sys2Proof/Machine/Control.lean ====
section
/-! DEFINITION. The one control-flow instruction, HCF (`41_control_flow.md` R150), and NOP (`42_data_memory.md` R189). -/

namespace Sys2Proof.Machine

/-- 0x01 `HCF` (R150): the run state becomes `Halted`, PC goes past the instruction, nothing else changes. PC and the
flags after it are UNVERIFIED, unsafe: decision D18, entry 27. -/
def execHcf (s : State) : Host.Outcome State Fault Refusal := s.finish (.ok (s.halt.advance 1))

/-- 0x00 `NOP` (R189): PC only. -/
def execNop (s : State) : Host.Outcome State Fault Refusal := s.finish (.ok (s.advance 1))

end Sys2Proof.Machine
end

