-- ==== Sys2Proof/Machine/Data.lean ====
section
/-! DEFINITION. SWP, PUSH and POP (`42_data_memory.md` R186 to R188). -/

namespace Sys2Proof.Machine

/-- N and Z after SWP (R186), from the new value of each operand: by `SWP_NZ` those of the first, those of the second,
or two free values (entry 9). -/
def State.setSwpNZ (s : State) (new1 new2 : Byte) : State :=
  match s.cfg.swpNz with
  | .r1 => s.setFlags (s.flags.setNZ new1)
  | .r2 => s.setFlags (s.flags.setNZ new2)
  | .any =>
    (s.setFlags { s.flags with n := Config.drawnFlag s.draws, z := Config.drawnFlag (s.draws + 1) }).addDraws 2

/-- 0x04 `SWP R1, R2` (R186): both operand bytes are mapped before either register is written. The operands are 8-bit
registers: UNVERIFIED, safe, decision D16, entry 36. -/
def execSwp (r1 : Byte) (r2 : Byte) (s : State) : Host.Outcome State Fault Refusal :=
  s.finish do
    let x ← s.reg8 r1
    let y ← s.reg8 r2
    let vx := s.regs.get x
    let vy := s.regs.get y
    return (((s.setReg8 x vy).setReg8 y vx).setSwpNZ vy vx).advance 3

/-- 0x02 `PUSH` (R187): SP goes up, then A is stored at the new SP. UNVERIFIED, unsafe: decision D17, entry 26. -/
def execPush (s : State) : Host.Outcome State Fault Refusal :=
  s.finish do
    let v := s.regs.get .a
    let t ← (s.setSp (s.sp + 1)).store8 (s.sp + 1) v
    return (t.setFlags (s.flags.setNZ v)).advance 1

/-- 0x03 `POP` (R188): A is loaded at the old SP, then SP goes down. UNVERIFIED, unsafe: decision D17, entry 26. -/
def execPop (s : State) : Host.Outcome State Fault Refusal :=
  s.finish do
    let v ← s.load8 s.sp
    return (((s.setReg8 .a v).setSp (s.sp - 1)).setFlags (s.flags.setNZ v)).advance 1

end Sys2Proof.Machine
end

