-- ==== Sys2Proof/Machine/Move.lean ====
section
/-! DEFINITION. MOV and MOVX, opcodes 0x30 to 0x3B and 0x40 to 0x4B (`42_data_memory.md` R160 to R185). -/

namespace Sys2Proof.Machine

/-- The steps of every MOV (R161), in the order of `00_scope.md` R7 and decision D22: decode both register bytes, read
Data, then the destination's pointer, write it, set N and Z from Data, advance PC (entry 41). Which value sets N and Z
is UNVERIFIED, unsafe: decision D31, entry 33. -/
def mov8 (src : Src 8 Byte) (dst : Dst Byte) (len : Addr) (s : State) : Host.Outcome State Fault Refusal :=
  s.finish do
    let o ← src.decode s.reg8
    let p ← dst.decode s.reg8
    let v ← o.value8 s
    let l ← p.place s
    let t ← s.put8 v l
    return (t.setFlags (s.flags.setNZ v)).advance len

/-- The steps of every MOVX (R161), in the same order (R7): both bytes of a source are read before either byte of the
destination is written. -/
def mov16 (src : Src 16 Byte) (dst : Dst Byte) (len : Addr) (s : State) : Host.Outcome State Fault Refusal :=
  s.finish do
    let o ← src.decode s.reg16
    let p ← dst.decode s.reg16
    let v ← o.value16 s
    let l ← p.place s
    let t ← s.put16 v l
    return (t.setFlags (s.flags.setNZ v)).advance len

/-- 0x30 `MOV #oper, oper` (R162). -/
def execMovImmAbs (v : Byte) (dst : Addr) (s : State) : Host.Outcome State Fault Refusal :=
  mov8 (.imm v) (.abs dst) 4 s

/-- 0x31 `MOV oper, oper` (R163). -/
def execMovAbsAbs (src : Addr) (dst : Addr) (s : State) : Host.Outcome State Fault Refusal :=
  mov8 (.abs src) (.abs dst) 5 s

/-- 0x32 `MOV @oper, oper` (R164). -/
def execMovIndAbs (src : Addr) (dst : Addr) (s : State) : Host.Outcome State Fault Refusal :=
  mov8 (.ind src) (.abs dst) 5 s

/-- 0x33 `MOV RX, oper` (R165). -/
def execMovRegAbs (rs : Byte) (dst : Addr) (s : State) : Host.Outcome State Fault Refusal :=
  mov8 (.reg rs) (.abs dst) 4 s

/-- 0x34 `MOV #oper, @oper` (R166). -/
def execMovImmInd (v : Byte) (dst : Addr) (s : State) : Host.Outcome State Fault Refusal :=
  mov8 (.imm v) (.ind dst) 4 s

/-- 0x35 `MOV oper, @oper` (R167). -/
def execMovAbsInd (src : Addr) (dst : Addr) (s : State) : Host.Outcome State Fault Refusal :=
  mov8 (.abs src) (.ind dst) 5 s

/-- 0x36 `MOV @oper, @oper` (R168). -/
def execMovIndInd (src : Addr) (dst : Addr) (s : State) : Host.Outcome State Fault Refusal :=
  mov8 (.ind src) (.ind dst) 5 s

/-- 0x37 `MOV RX, @oper` (R169). -/
def execMovRegInd (rs : Byte) (dst : Addr) (s : State) : Host.Outcome State Fault Refusal :=
  mov8 (.reg rs) (.ind dst) 4 s

/-- 0x38 `MOV #oper, RX` (R170). -/
def execMovImmReg (v : Byte) (rd : Byte) (s : State) : Host.Outcome State Fault Refusal :=
  mov8 (.imm v) (.reg rd) 3 s

/-- 0x39 `MOV oper, RX` (R171). -/
def execMovAbsReg (src : Addr) (rd : Byte) (s : State) : Host.Outcome State Fault Refusal :=
  mov8 (.abs src) (.reg rd) 4 s

/-- 0x3A `MOV @oper, RX` (R172). -/
def execMovIndReg (src : Addr) (rd : Byte) (s : State) : Host.Outcome State Fault Refusal :=
  mov8 (.ind src) (.reg rd) 4 s

/-- 0x3B `MOV RX, RX` (R173). -/
def execMovRegReg (rs : Byte) (rd : Byte) (s : State) : Host.Outcome State Fault Refusal :=
  mov8 (.reg rs) (.reg rd) 3 s

/-- 0x40 `MOVX #oper, oper` (R174). -/
def execMovxImmAbs (v : Word) (dst : Addr) (s : State) : Host.Outcome State Fault Refusal :=
  mov16 (.imm v) (.abs dst) 5 s

/-- 0x41 `MOVX oper, oper` (R175). -/
def execMovxAbsAbs (src : Addr) (dst : Addr) (s : State) : Host.Outcome State Fault Refusal :=
  mov16 (.abs src) (.abs dst) 5 s

/-- 0x42 `MOVX @oper, oper` (R176). -/
def execMovxIndAbs (src : Addr) (dst : Addr) (s : State) : Host.Outcome State Fault Refusal :=
  mov16 (.ind src) (.abs dst) 5 s

/-- 0x43 `MOVX RX, oper` (R177). -/
def execMovxRegAbs (rs : Byte) (dst : Addr) (s : State) : Host.Outcome State Fault Refusal :=
  mov16 (.reg rs) (.abs dst) 4 s

/-- 0x44 `MOVX #oper, @oper` (R178). -/
def execMovxImmInd (v : Word) (dst : Addr) (s : State) : Host.Outcome State Fault Refusal :=
  mov16 (.imm v) (.ind dst) 5 s

/-- 0x45 `MOVX oper, @oper` (R179). -/
def execMovxAbsInd (src : Addr) (dst : Addr) (s : State) : Host.Outcome State Fault Refusal :=
  mov16 (.abs src) (.ind dst) 5 s

/-- 0x46 `MOVX @oper, @oper` (R180). -/
def execMovxIndInd (src : Addr) (dst : Addr) (s : State) : Host.Outcome State Fault Refusal :=
  mov16 (.ind src) (.ind dst) 5 s

/-- 0x47 `MOVX RX, @oper` (R181). -/
def execMovxRegInd (rs : Byte) (dst : Addr) (s : State) : Host.Outcome State Fault Refusal :=
  mov16 (.reg rs) (.ind dst) 4 s

/-- 0x48 `MOVX #oper, RX` (R182). -/
def execMovxImmReg (v : Word) (rd : Byte) (s : State) : Host.Outcome State Fault Refusal :=
  mov16 (.imm v) (.reg rd) 4 s

/-- 0x49 `MOVX oper, RX` (R183). -/
def execMovxAbsReg (src : Addr) (rd : Byte) (s : State) : Host.Outcome State Fault Refusal :=
  mov16 (.abs src) (.reg rd) 4 s

/-- 0x4A `MOVX @oper, RX` (R184). -/
def execMovxIndReg (src : Addr) (rd : Byte) (s : State) : Host.Outcome State Fault Refusal :=
  mov16 (.ind src) (.reg rd) 4 s

/-- 0x4B `MOVX RX, RX` (R185). -/
def execMovxRegReg (rs : Byte) (rd : Byte) (s : State) : Host.Outcome State Fault Refusal :=
  mov16 (.reg rs) (.reg rd) 3 s

end Sys2Proof.Machine
end

