-- ==== Sys2Proof/Syntax.lean ====
section
/-! DEFINITION. The instructions: one constructor per row of `spec/opcode_table.json`, in opcode order
(`30_encoding.md` R51, R52). A register operand is kept as its operand byte, because which byte names which register
is a parameter and an unmapped byte is an event of execution (R59, R62, `70_reset_and_hazards.md` R227), entry 39.
The nineteen names of R140 and R152 have no encoding and are no constructors (entry 37). -/

namespace Sys2Proof

/-- A Coz502 instruction. `v` is an immediate, `a`, `src` and `dst` are addresses, `r`, `rs`, `rd`, `r1` and `r2` are
register operand bytes. -/
inductive Instr where
  /-- 0x00 `NOP` (R189). -/
  | nop
  /-- 0x01 `HCF` (R150). -/
  | hcf
  /-- 0x02 `PUSH` (R187). -/
  | push
  /-- 0x03 `POP` (R188). -/
  | pop
  /-- 0x04 `SWP R1, R2` (R186). -/
  | swp (r1 : Byte) (r2 : Byte)
  /-- 0x10 `ADD #oper` (R105). -/
  | addImm (v : Byte)
  /-- 0x11 `ADD oper` (R106). -/
  | addAbs (a : Addr)
  /-- 0x12 `ADD @oper` (R107). -/
  | addInd (a : Addr)
  /-- 0x13 `ADD RX` (R108). -/
  | addReg (r : Byte)
  /-- 0x14 `ADDX #oper` (R109). -/
  | addxImm (v : Word)
  /-- 0x15 `ADDX oper` (R110). -/
  | addxAbs (a : Addr)
  /-- 0x16 `ADDX @oper` (R111). -/
  | addxInd (a : Addr)
  /-- 0x17 `ADDX RX` (R112). -/
  | addxReg (r : Byte)
  /-- 0x18 `SUB #oper` (R113). -/
  | subImm (v : Byte)
  /-- 0x19 `SUB oper` (R114). -/
  | subAbs (a : Addr)
  /-- 0x1A `SUB @oper` (R115). -/
  | subInd (a : Addr)
  /-- 0x1B `SUB RX` (R116). -/
  | subReg (r : Byte)
  /-- 0x1C `SUBX #oper` (R117). -/
  | subxImm (v : Word)
  /-- 0x1D `SUBX oper` (R118). -/
  | subxAbs (a : Addr)
  /-- 0x1E `SUBX @oper` (R119). -/
  | subxInd (a : Addr)
  /-- 0x1F `SUBX RX` (R120). -/
  | subxReg (r : Byte)
  /-- 0x20 `MUL #oper` (R121). -/
  | mulImm (v : Byte)
  /-- 0x21 `MUL oper` (R122). -/
  | mulAbs (a : Addr)
  /-- 0x22 `MUL @oper` (R123). -/
  | mulInd (a : Addr)
  /-- 0x23 `MUL RX` (R124). -/
  | mulReg (r : Byte)
  /-- 0x24 `MULX #oper` (R125). -/
  | mulxImm (v : Word)
  /-- 0x25 `MULX oper` (R126). -/
  | mulxAbs (a : Addr)
  /-- 0x26 `MULX @oper` (R127). -/
  | mulxInd (a : Addr)
  /-- 0x27 `MULX RX` (R128). -/
  | mulxReg (r : Byte)
  /-- 0x28 `DIV #oper` (R129). -/
  | divImm (v : Byte)
  /-- 0x29 `DIV oper` (R130). -/
  | divAbs (a : Addr)
  /-- 0x2A `DIV @oper` (R131). -/
  | divInd (a : Addr)
  /-- 0x2B `DIV RX` (R132). -/
  | divReg (r : Byte)
  /-- 0x2C `DIVX #oper` (R133). -/
  | divxImm (v : Word)
  /-- 0x2D `DIVX oper` (R134). -/
  | divxAbs (a : Addr)
  /-- 0x2E `DIVX @oper` (R135). -/
  | divxInd (a : Addr)
  /-- 0x2F `DIVX RX` (R136). -/
  | divxReg (r : Byte)
  /-- 0x30 `MOV #oper, oper` (R162). -/
  | movImmAbs (v : Byte) (dst : Addr)
  /-- 0x31 `MOV oper, oper` (R163). -/
  | movAbsAbs (src : Addr) (dst : Addr)
  /-- 0x32 `MOV @oper, oper` (R164). -/
  | movIndAbs (src : Addr) (dst : Addr)
  /-- 0x33 `MOV RX, oper` (R165). -/
  | movRegAbs (rs : Byte) (dst : Addr)
  /-- 0x34 `MOV #oper, @oper` (R166). -/
  | movImmInd (v : Byte) (dst : Addr)
  /-- 0x35 `MOV oper, @oper` (R167). -/
  | movAbsInd (src : Addr) (dst : Addr)
  /-- 0x36 `MOV @oper, @oper` (R168). -/
  | movIndInd (src : Addr) (dst : Addr)
  /-- 0x37 `MOV RX, @oper` (R169). -/
  | movRegInd (rs : Byte) (dst : Addr)
  /-- 0x38 `MOV #oper, RX` (R170). -/
  | movImmReg (v : Byte) (rd : Byte)
  /-- 0x39 `MOV oper, RX` (R171). -/
  | movAbsReg (src : Addr) (rd : Byte)
  /-- 0x3A `MOV @oper, RX` (R172). -/
  | movIndReg (src : Addr) (rd : Byte)
  /-- 0x3B `MOV RX, RX` (R173). -/
  | movRegReg (rs : Byte) (rd : Byte)
  /-- 0x40 `MOVX #oper, oper` (R174). -/
  | movxImmAbs (v : Word) (dst : Addr)
  /-- 0x41 `MOVX oper, oper` (R175). -/
  | movxAbsAbs (src : Addr) (dst : Addr)
  /-- 0x42 `MOVX @oper, oper` (R176). -/
  | movxIndAbs (src : Addr) (dst : Addr)
  /-- 0x43 `MOVX RX, oper` (R177). -/
  | movxRegAbs (rs : Byte) (dst : Addr)
  /-- 0x44 `MOVX #oper, @oper` (R178). -/
  | movxImmInd (v : Word) (dst : Addr)
  /-- 0x45 `MOVX oper, @oper` (R179). -/
  | movxAbsInd (src : Addr) (dst : Addr)
  /-- 0x46 `MOVX @oper, @oper` (R180). -/
  | movxIndInd (src : Addr) (dst : Addr)
  /-- 0x47 `MOVX RX, @oper` (R181). -/
  | movxRegInd (rs : Byte) (dst : Addr)
  /-- 0x48 `MOVX #oper, RX` (R182). -/
  | movxImmReg (v : Word) (rd : Byte)
  /-- 0x49 `MOVX oper, RX` (R183). -/
  | movxAbsReg (src : Addr) (rd : Byte)
  /-- 0x4A `MOVX @oper, RX` (R184). -/
  | movxIndReg (src : Addr) (rd : Byte)
  /-- 0x4B `MOVX RX, RX` (R185). -/
  | movxRegReg (rs : Byte) (rd : Byte)
deriving DecidableEq, Repr

end Sys2Proof
end

