-- ==== Sys2Proof/Machine/Dispatch.lean ====
section
/-! DEFINITION. One arm per instruction, each one call of its meaning. -/

namespace Sys2Proof.Machine

def exec (i : Instr) (s : State) : Host.Outcome State Fault Refusal :=
  match i with
  | .nop => Sys2Proof.Machine.execNop s
  | .hcf => Sys2Proof.Machine.execHcf s
  | .push => Sys2Proof.Machine.execPush s
  | .pop => Sys2Proof.Machine.execPop s
  | .swp r1 r2 => Sys2Proof.Machine.execSwp r1 r2 s
  | .addImm v => Sys2Proof.Machine.execAddImm v s
  | .addAbs a => Sys2Proof.Machine.execAddAbs a s
  | .addInd a => Sys2Proof.Machine.execAddInd a s
  | .addReg r => Sys2Proof.Machine.execAddReg r s
  | .addxImm v => Sys2Proof.Machine.execAddxImm v s
  | .addxAbs a => Sys2Proof.Machine.execAddxAbs a s
  | .addxInd a => Sys2Proof.Machine.execAddxInd a s
  | .addxReg r => Sys2Proof.Machine.execAddxReg r s
  | .subImm v => Sys2Proof.Machine.execSubImm v s
  | .subAbs a => Sys2Proof.Machine.execSubAbs a s
  | .subInd a => Sys2Proof.Machine.execSubInd a s
  | .subReg r => Sys2Proof.Machine.execSubReg r s
  | .subxImm v => Sys2Proof.Machine.execSubxImm v s
  | .subxAbs a => Sys2Proof.Machine.execSubxAbs a s
  | .subxInd a => Sys2Proof.Machine.execSubxInd a s
  | .subxReg r => Sys2Proof.Machine.execSubxReg r s
  | .mulImm v => Sys2Proof.Machine.execMulImm v s
  | .mulAbs a => Sys2Proof.Machine.execMulAbs a s
  | .mulInd a => Sys2Proof.Machine.execMulInd a s
  | .mulReg r => Sys2Proof.Machine.execMulReg r s
  | .mulxImm v => Sys2Proof.Machine.execMulxImm v s
  | .mulxAbs a => Sys2Proof.Machine.execMulxAbs a s
  | .mulxInd a => Sys2Proof.Machine.execMulxInd a s
  | .mulxReg r => Sys2Proof.Machine.execMulxReg r s
  | .divImm v => Sys2Proof.Machine.execDivImm v s
  | .divAbs a => Sys2Proof.Machine.execDivAbs a s
  | .divInd a => Sys2Proof.Machine.execDivInd a s
  | .divReg r => Sys2Proof.Machine.execDivReg r s
  | .divxImm v => Sys2Proof.Machine.execDivxImm v s
  | .divxAbs a => Sys2Proof.Machine.execDivxAbs a s
  | .divxInd a => Sys2Proof.Machine.execDivxInd a s
  | .divxReg r => Sys2Proof.Machine.execDivxReg r s
  | .movImmAbs v dst => Sys2Proof.Machine.execMovImmAbs v dst s
  | .movAbsAbs src dst => Sys2Proof.Machine.execMovAbsAbs src dst s
  | .movIndAbs src dst => Sys2Proof.Machine.execMovIndAbs src dst s
  | .movRegAbs rs dst => Sys2Proof.Machine.execMovRegAbs rs dst s
  | .movImmInd v dst => Sys2Proof.Machine.execMovImmInd v dst s
  | .movAbsInd src dst => Sys2Proof.Machine.execMovAbsInd src dst s
  | .movIndInd src dst => Sys2Proof.Machine.execMovIndInd src dst s
  | .movRegInd rs dst => Sys2Proof.Machine.execMovRegInd rs dst s
  | .movImmReg v rd => Sys2Proof.Machine.execMovImmReg v rd s
  | .movAbsReg src rd => Sys2Proof.Machine.execMovAbsReg src rd s
  | .movIndReg src rd => Sys2Proof.Machine.execMovIndReg src rd s
  | .movRegReg rs rd => Sys2Proof.Machine.execMovRegReg rs rd s
  | .movxImmAbs v dst => Sys2Proof.Machine.execMovxImmAbs v dst s
  | .movxAbsAbs src dst => Sys2Proof.Machine.execMovxAbsAbs src dst s
  | .movxIndAbs src dst => Sys2Proof.Machine.execMovxIndAbs src dst s
  | .movxRegAbs rs dst => Sys2Proof.Machine.execMovxRegAbs rs dst s
  | .movxImmInd v dst => Sys2Proof.Machine.execMovxImmInd v dst s
  | .movxAbsInd src dst => Sys2Proof.Machine.execMovxAbsInd src dst s
  | .movxIndInd src dst => Sys2Proof.Machine.execMovxIndInd src dst s
  | .movxRegInd rs dst => Sys2Proof.Machine.execMovxRegInd rs dst s
  | .movxImmReg v rd => Sys2Proof.Machine.execMovxImmReg v rd s
  | .movxAbsReg src rd => Sys2Proof.Machine.execMovxAbsReg src rd s
  | .movxIndReg src rd => Sys2Proof.Machine.execMovxIndReg src rd s
  | .movxRegReg rs rd => Sys2Proof.Machine.execMovxRegReg rs rd s

end Sys2Proof.Machine
end

