-- ==== Sys2Proof/Decode.lean ====
section
/-! DEFINITION. The decoder: the opcode map, the shapes, from bytes to an instruction (`30_encoding.md`). After it the
encoder, written from the same tables. -/

namespace Sys2Proof

/-- Operand width of an instruction: the plain mnemonic or the X mnemonic. -/
inductive Width where
  | w8 | w16
deriving DecidableEq, Repr

/-- What an opcode byte alone selects: instruction, addressing mode and width (`30_encoding.md` R50). -/
inductive Opcode where
  | nop | hcf | push | pop | swp
  | alu (op : AluOp) (w : Width) (m : SrcMode)
  | mov (w : Width) (f : MovForm)
deriving DecidableEq, Repr

/-- The seven instruction shapes (R53). -/
inductive Shape where
  | op | opB | opW | opBB | opBW | opWB | opWW
deriving DecidableEq, Repr

/-- The cells of the opcode map outside MOV and MOVX (R51, R52); `none` is a blank cell. -/
def fixedCell (n : Nat) : Option Opcode :=
  match n with
  | 0x00 => some .nop
  | 0x01 => some .hcf
  | 0x02 => some .push
  | 0x03 => some .pop
  | 0x04 => some .swp
  | 0x10 => some (.alu .add .w8 .imm)
  | 0x11 => some (.alu .add .w8 .abs)
  | 0x12 => some (.alu .add .w8 .ind)
  | 0x13 => some (.alu .add .w8 .reg)
  | 0x14 => some (.alu .add .w16 .imm)
  | 0x15 => some (.alu .add .w16 .abs)
  | 0x16 => some (.alu .add .w16 .ind)
  | 0x17 => some (.alu .add .w16 .reg)
  | 0x18 => some (.alu .sub .w8 .imm)
  | 0x19 => some (.alu .sub .w8 .abs)
  | 0x1A => some (.alu .sub .w8 .ind)
  | 0x1B => some (.alu .sub .w8 .reg)
  | 0x1C => some (.alu .sub .w16 .imm)
  | 0x1D => some (.alu .sub .w16 .abs)
  | 0x1E => some (.alu .sub .w16 .ind)
  | 0x1F => some (.alu .sub .w16 .reg)
  | 0x20 => some (.alu .mul .w8 .imm)
  | 0x21 => some (.alu .mul .w8 .abs)
  | 0x22 => some (.alu .mul .w8 .ind)
  | 0x23 => some (.alu .mul .w8 .reg)
  | 0x24 => some (.alu .mul .w16 .imm)
  | 0x25 => some (.alu .mul .w16 .abs)
  | 0x26 => some (.alu .mul .w16 .ind)
  | 0x27 => some (.alu .mul .w16 .reg)
  | 0x28 => some (.alu .div .w8 .imm)
  | 0x29 => some (.alu .div .w8 .abs)
  | 0x2A => some (.alu .div .w8 .ind)
  | 0x2B => some (.alu .div .w8 .reg)
  | 0x2C => some (.alu .div .w16 .imm)
  | 0x2D => some (.alu .div .w16 .abs)
  | 0x2E => some (.alu .div .w16 .ind)
  | 0x2F => some (.alu .div .w16 .reg)
  | _ => none

/-- The opcode map (R51, R52); `none` is a blank cell. The MOV and MOVX cells are assigned by `MOV_OPCODES` (R60). -/
def Opcode.ofByte (cfg : Config) (b : Byte) : Option Opcode :=
  let n := b.toNat
  if 0x30 ≤ n ∧ n < 0x3C then (cfg.movForms[n - 0x30]?).map (.mov .w8)
  else if 0x40 ≤ n ∧ n < 0x4C then (cfg.movxForms[n - 0x40]?).map (.mov .w16)
  else fixedCell n

/-- The mnemonic in an opcode's cell of the map (R51). -/
def Opcode.mnemonic : Opcode → String
  | .nop => "NOP"
  | .hcf => "HCF"
  | .push => "PUSH"
  | .pop => "POP"
  | .swp => "SWP"
  | .alu .add .w8 _ => "ADD"
  | .alu .add .w16 _ => "ADDX"
  | .alu .sub .w8 _ => "SUB"
  | .alu .sub .w16 _ => "SUBX"
  | .alu .mul .w8 _ => "MUL"
  | .alu .mul .w16 _ => "MULX"
  | .alu .div .w8 _ => "DIV"
  | .alu .div .w16 _ => "DIVX"
  | .mov .w8 _ => "MOV"
  | .mov .w16 _ => "MOVX"

/-- The shape of each opcode (R53). -/
def Opcode.shape : Opcode → Shape
  | .nop | .hcf | .push | .pop => .op
  | .swp => .opBB
  | .alu _ .w8 .imm => .opB
  | .alu _ .w16 .imm => .opW
  | .alu _ _ .abs => .opW
  | .alu _ _ .ind => .opW
  | .alu _ _ .reg => .opB
  | .mov .w8 ⟨.imm, .reg⟩ => .opBB
  | .mov .w8 ⟨.imm, .abs⟩ => .opBW
  | .mov .w8 ⟨.imm, .ind⟩ => .opBW
  | .mov .w16 ⟨.imm, .reg⟩ => .opWB
  | .mov .w16 ⟨.imm, .abs⟩ => .opWW
  | .mov .w16 ⟨.imm, .ind⟩ => .opWW
  | .mov _ ⟨.abs, .reg⟩ => .opWB
  | .mov _ ⟨.ind, .reg⟩ => .opWB
  | .mov _ ⟨.abs, .abs⟩ => .opWW
  | .mov _ ⟨.abs, .ind⟩ => .opWW
  | .mov _ ⟨.ind, .abs⟩ => .opWW
  | .mov _ ⟨.ind, .ind⟩ => .opWW
  | .mov _ ⟨.reg, .reg⟩ => .opBB
  | .mov _ ⟨.reg, .abs⟩ => .opBW
  | .mov _ ⟨.reg, .ind⟩ => .opBW

/-- The length of each shape in bytes (R53). -/
def Shape.length : Shape → Nat
  | .op => 1
  | .opB => 2
  | .opW => 3
  | .opBB => 3
  | .opBW => 4
  | .opWB => 4
  | .opWW => 5

/-- The length of an instruction is a function of its opcode alone (R64). -/
def Opcode.length (o : Opcode) : Nat := o.shape.length

/-- `w16(k)`: the 16-bit operand at instruction bytes k and k+1, high byte first (R31, `00_scope.md` R6). -/
def operand16 (fetch : Nat → Byte) (k : Nat) : Word := catBytes (fetch k) (fetch (k + 1))

/-- The operand fields of an opcode, read at the places R53 gives them; `fetch k` is byte k of the instruction. -/
def Opcode.instr (fetch : Nat → Byte) : Opcode → Instr
  | .nop => .nop
  | .hcf => .hcf
  | .push => .push
  | .pop => .pop
  | .swp => .swp (fetch 1) (fetch 2)
  | .alu .add .w8 .imm => .addImm (fetch 1)
  | .alu .add .w8 .abs => .addAbs (operand16 fetch 1)
  | .alu .add .w8 .ind => .addInd (operand16 fetch 1)
  | .alu .add .w8 .reg => .addReg (fetch 1)
  | .alu .add .w16 .imm => .addxImm (operand16 fetch 1)
  | .alu .add .w16 .abs => .addxAbs (operand16 fetch 1)
  | .alu .add .w16 .ind => .addxInd (operand16 fetch 1)
  | .alu .add .w16 .reg => .addxReg (fetch 1)
  | .alu .sub .w8 .imm => .subImm (fetch 1)
  | .alu .sub .w8 .abs => .subAbs (operand16 fetch 1)
  | .alu .sub .w8 .ind => .subInd (operand16 fetch 1)
  | .alu .sub .w8 .reg => .subReg (fetch 1)
  | .alu .sub .w16 .imm => .subxImm (operand16 fetch 1)
  | .alu .sub .w16 .abs => .subxAbs (operand16 fetch 1)
  | .alu .sub .w16 .ind => .subxInd (operand16 fetch 1)
  | .alu .sub .w16 .reg => .subxReg (fetch 1)
  | .alu .mul .w8 .imm => .mulImm (fetch 1)
  | .alu .mul .w8 .abs => .mulAbs (operand16 fetch 1)
  | .alu .mul .w8 .ind => .mulInd (operand16 fetch 1)
  | .alu .mul .w8 .reg => .mulReg (fetch 1)
  | .alu .mul .w16 .imm => .mulxImm (operand16 fetch 1)
  | .alu .mul .w16 .abs => .mulxAbs (operand16 fetch 1)
  | .alu .mul .w16 .ind => .mulxInd (operand16 fetch 1)
  | .alu .mul .w16 .reg => .mulxReg (fetch 1)
  | .alu .div .w8 .imm => .divImm (fetch 1)
  | .alu .div .w8 .abs => .divAbs (operand16 fetch 1)
  | .alu .div .w8 .ind => .divInd (operand16 fetch 1)
  | .alu .div .w8 .reg => .divReg (fetch 1)
  | .alu .div .w16 .imm => .divxImm (operand16 fetch 1)
  | .alu .div .w16 .abs => .divxAbs (operand16 fetch 1)
  | .alu .div .w16 .ind => .divxInd (operand16 fetch 1)
  | .alu .div .w16 .reg => .divxReg (fetch 1)
  | .mov .w8 ⟨.imm, .abs⟩ => .movImmAbs (fetch 1) (operand16 fetch 2)
  | .mov .w8 ⟨.abs, .abs⟩ => .movAbsAbs (operand16 fetch 1) (operand16 fetch 3)
  | .mov .w8 ⟨.ind, .abs⟩ => .movIndAbs (operand16 fetch 1) (operand16 fetch 3)
  | .mov .w8 ⟨.reg, .abs⟩ => .movRegAbs (fetch 1) (operand16 fetch 2)
  | .mov .w8 ⟨.imm, .ind⟩ => .movImmInd (fetch 1) (operand16 fetch 2)
  | .mov .w8 ⟨.abs, .ind⟩ => .movAbsInd (operand16 fetch 1) (operand16 fetch 3)
  | .mov .w8 ⟨.ind, .ind⟩ => .movIndInd (operand16 fetch 1) (operand16 fetch 3)
  | .mov .w8 ⟨.reg, .ind⟩ => .movRegInd (fetch 1) (operand16 fetch 2)
  | .mov .w8 ⟨.imm, .reg⟩ => .movImmReg (fetch 1) (fetch 2)
  | .mov .w8 ⟨.abs, .reg⟩ => .movAbsReg (operand16 fetch 1) (fetch 3)
  | .mov .w8 ⟨.ind, .reg⟩ => .movIndReg (operand16 fetch 1) (fetch 3)
  | .mov .w8 ⟨.reg, .reg⟩ => .movRegReg (fetch 1) (fetch 2)
  | .mov .w16 ⟨.imm, .abs⟩ => .movxImmAbs (operand16 fetch 1) (operand16 fetch 3)
  | .mov .w16 ⟨.abs, .abs⟩ => .movxAbsAbs (operand16 fetch 1) (operand16 fetch 3)
  | .mov .w16 ⟨.ind, .abs⟩ => .movxIndAbs (operand16 fetch 1) (operand16 fetch 3)
  | .mov .w16 ⟨.reg, .abs⟩ => .movxRegAbs (fetch 1) (operand16 fetch 2)
  | .mov .w16 ⟨.imm, .ind⟩ => .movxImmInd (operand16 fetch 1) (operand16 fetch 3)
  | .mov .w16 ⟨.abs, .ind⟩ => .movxAbsInd (operand16 fetch 1) (operand16 fetch 3)
  | .mov .w16 ⟨.ind, .ind⟩ => .movxIndInd (operand16 fetch 1) (operand16 fetch 3)
  | .mov .w16 ⟨.reg, .ind⟩ => .movxRegInd (fetch 1) (operand16 fetch 2)
  | .mov .w16 ⟨.imm, .reg⟩ => .movxImmReg (operand16 fetch 1) (fetch 3)
  | .mov .w16 ⟨.abs, .reg⟩ => .movxAbsReg (operand16 fetch 1) (fetch 3)
  | .mov .w16 ⟨.ind, .reg⟩ => .movxIndReg (operand16 fetch 1) (fetch 3)
  | .mov .w16 ⟨.reg, .reg⟩ => .movxRegReg (fetch 1) (fetch 2)

/-- Why bytes are no instruction. -/
inductive DecodeError where
  /-- The opcode byte is a blank cell of the map (R61). Raised by `decode`; safe. -/
  | illegalOpcode (b : Byte)
deriving DecidableEq, Repr

/-- The decoder: `fetch k` is byte k of the instruction, `fetch 0` the opcode (R50, `00_scope.md` R6). It looks at
no byte past the instruction's length. -/
def decode (cfg : Config) (fetch : Nat → Byte) : Except DecodeError Instr :=
  match Opcode.ofByte cfg (fetch 0) with
  | none => .error (.illegalOpcode (fetch 0))
  | some o => .ok (o.instr fetch)

/-- What a constructor's opcode selects (R52). -/
def Instr.opcode : Instr → Opcode
  | .nop => .nop
  | .hcf => .hcf
  | .push => .push
  | .pop => .pop
  | .swp _ _ => .swp
  | .addImm _ => .alu .add .w8 .imm
  | .addAbs _ => .alu .add .w8 .abs
  | .addInd _ => .alu .add .w8 .ind
  | .addReg _ => .alu .add .w8 .reg
  | .addxImm _ => .alu .add .w16 .imm
  | .addxAbs _ => .alu .add .w16 .abs
  | .addxInd _ => .alu .add .w16 .ind
  | .addxReg _ => .alu .add .w16 .reg
  | .subImm _ => .alu .sub .w8 .imm
  | .subAbs _ => .alu .sub .w8 .abs
  | .subInd _ => .alu .sub .w8 .ind
  | .subReg _ => .alu .sub .w8 .reg
  | .subxImm _ => .alu .sub .w16 .imm
  | .subxAbs _ => .alu .sub .w16 .abs
  | .subxInd _ => .alu .sub .w16 .ind
  | .subxReg _ => .alu .sub .w16 .reg
  | .mulImm _ => .alu .mul .w8 .imm
  | .mulAbs _ => .alu .mul .w8 .abs
  | .mulInd _ => .alu .mul .w8 .ind
  | .mulReg _ => .alu .mul .w8 .reg
  | .mulxImm _ => .alu .mul .w16 .imm
  | .mulxAbs _ => .alu .mul .w16 .abs
  | .mulxInd _ => .alu .mul .w16 .ind
  | .mulxReg _ => .alu .mul .w16 .reg
  | .divImm _ => .alu .div .w8 .imm
  | .divAbs _ => .alu .div .w8 .abs
  | .divInd _ => .alu .div .w8 .ind
  | .divReg _ => .alu .div .w8 .reg
  | .divxImm _ => .alu .div .w16 .imm
  | .divxAbs _ => .alu .div .w16 .abs
  | .divxInd _ => .alu .div .w16 .ind
  | .divxReg _ => .alu .div .w16 .reg
  | .movImmAbs _ _ => .mov .w8 ⟨.imm, .abs⟩
  | .movAbsAbs _ _ => .mov .w8 ⟨.abs, .abs⟩
  | .movIndAbs _ _ => .mov .w8 ⟨.ind, .abs⟩
  | .movRegAbs _ _ => .mov .w8 ⟨.reg, .abs⟩
  | .movImmInd _ _ => .mov .w8 ⟨.imm, .ind⟩
  | .movAbsInd _ _ => .mov .w8 ⟨.abs, .ind⟩
  | .movIndInd _ _ => .mov .w8 ⟨.ind, .ind⟩
  | .movRegInd _ _ => .mov .w8 ⟨.reg, .ind⟩
  | .movImmReg _ _ => .mov .w8 ⟨.imm, .reg⟩
  | .movAbsReg _ _ => .mov .w8 ⟨.abs, .reg⟩
  | .movIndReg _ _ => .mov .w8 ⟨.ind, .reg⟩
  | .movRegReg _ _ => .mov .w8 ⟨.reg, .reg⟩
  | .movxImmAbs _ _ => .mov .w16 ⟨.imm, .abs⟩
  | .movxAbsAbs _ _ => .mov .w16 ⟨.abs, .abs⟩
  | .movxIndAbs _ _ => .mov .w16 ⟨.ind, .abs⟩
  | .movxRegAbs _ _ => .mov .w16 ⟨.reg, .abs⟩
  | .movxImmInd _ _ => .mov .w16 ⟨.imm, .ind⟩
  | .movxAbsInd _ _ => .mov .w16 ⟨.abs, .ind⟩
  | .movxIndInd _ _ => .mov .w16 ⟨.ind, .ind⟩
  | .movxRegInd _ _ => .mov .w16 ⟨.reg, .ind⟩
  | .movxImmReg _ _ => .mov .w16 ⟨.imm, .reg⟩
  | .movxAbsReg _ _ => .mov .w16 ⟨.abs, .reg⟩
  | .movxIndReg _ _ => .mov .w16 ⟨.ind, .reg⟩
  | .movxRegReg _ _ => .mov .w16 ⟨.reg, .reg⟩

/-- The length of an instruction in bytes (R52). -/
def Instr.length (i : Instr) : Nat := i.opcode.length

/-- Why a list of bytes does not begin with an instruction. -/
inductive StreamError where
  /-- Its first byte is a blank cell of the map (R61); safe. -/
  | rejected (e : DecodeError)
  /-- It ends before the instruction does; safe. -/
  | truncated
deriving DecidableEq, Repr

/-- The decoder on a list of bytes: the first instruction and the bytes after it (R53). -/
def decodeBytes (cfg : Config) (bs : List Byte) : Except StreamError (Instr × List Byte) :=
  match bs with
  | [] => .error .truncated
  | _ :: _ =>
    match decode cfg (fun k => bs.getD k 0) with
    | .error e => .error (.rejected e)
    | .ok i => if bs.length < i.length then .error .truncated else .ok (i, bs.drop i.length)

/-- The instruction of a table row's bits under the default parameters: bit 0 is the least significant bit of the
first byte, and every bit from `nbits` up is 0. -/
def decodeTableWord (nbits w : Nat) : Option Instr :=
  match decode Config.default (fun k => byteOfBits (w % 2 ^ nbits) k) with
  | .ok i => some i
  | .error _ => none

/-- The opcode byte of each cell (R52); a MOV or MOVX form stands at the cell `MOV_OPCODES` gives it (R60). -/
def Opcode.toByte (cfg : Config) : Opcode → Byte
  | .nop => 0x00
  | .hcf => 0x01
  | .push => 0x02
  | .pop => 0x03
  | .swp => 0x04
  | .alu .add .w8 .imm => 0x10
  | .alu .add .w8 .abs => 0x11
  | .alu .add .w8 .ind => 0x12
  | .alu .add .w8 .reg => 0x13
  | .alu .add .w16 .imm => 0x14
  | .alu .add .w16 .abs => 0x15
  | .alu .add .w16 .ind => 0x16
  | .alu .add .w16 .reg => 0x17
  | .alu .sub .w8 .imm => 0x18
  | .alu .sub .w8 .abs => 0x19
  | .alu .sub .w8 .ind => 0x1A
  | .alu .sub .w8 .reg => 0x1B
  | .alu .sub .w16 .imm => 0x1C
  | .alu .sub .w16 .abs => 0x1D
  | .alu .sub .w16 .ind => 0x1E
  | .alu .sub .w16 .reg => 0x1F
  | .alu .mul .w8 .imm => 0x20
  | .alu .mul .w8 .abs => 0x21
  | .alu .mul .w8 .ind => 0x22
  | .alu .mul .w8 .reg => 0x23
  | .alu .mul .w16 .imm => 0x24
  | .alu .mul .w16 .abs => 0x25
  | .alu .mul .w16 .ind => 0x26
  | .alu .mul .w16 .reg => 0x27
  | .alu .div .w8 .imm => 0x28
  | .alu .div .w8 .abs => 0x29
  | .alu .div .w8 .ind => 0x2A
  | .alu .div .w8 .reg => 0x2B
  | .alu .div .w16 .imm => 0x2C
  | .alu .div .w16 .abs => 0x2D
  | .alu .div .w16 .ind => 0x2E
  | .alu .div .w16 .reg => 0x2F
  | .mov .w8 f => BitVec.ofNat 8 (0x30 + cfg.movForms.idxOf f)
  | .mov .w16 f => BitVec.ofNat 8 (0x40 + cfg.movxForms.idxOf f)

/-- The operand bytes of an instruction, in order (R52, R53). -/
def Instr.operandBytes : Instr → List Byte
  | .nop => []
  | .hcf => []
  | .push => []
  | .pop => []
  | .swp r1 r2 => [r1, r2]
  | .addImm v => [v]
  | .addAbs a => [hiByte a, loByte a]
  | .addInd a => [hiByte a, loByte a]
  | .addReg r => [r]
  | .addxImm v => [hiByte v, loByte v]
  | .addxAbs a => [hiByte a, loByte a]
  | .addxInd a => [hiByte a, loByte a]
  | .addxReg r => [r]
  | .subImm v => [v]
  | .subAbs a => [hiByte a, loByte a]
  | .subInd a => [hiByte a, loByte a]
  | .subReg r => [r]
  | .subxImm v => [hiByte v, loByte v]
  | .subxAbs a => [hiByte a, loByte a]
  | .subxInd a => [hiByte a, loByte a]
  | .subxReg r => [r]
  | .mulImm v => [v]
  | .mulAbs a => [hiByte a, loByte a]
  | .mulInd a => [hiByte a, loByte a]
  | .mulReg r => [r]
  | .mulxImm v => [hiByte v, loByte v]
  | .mulxAbs a => [hiByte a, loByte a]
  | .mulxInd a => [hiByte a, loByte a]
  | .mulxReg r => [r]
  | .divImm v => [v]
  | .divAbs a => [hiByte a, loByte a]
  | .divInd a => [hiByte a, loByte a]
  | .divReg r => [r]
  | .divxImm v => [hiByte v, loByte v]
  | .divxAbs a => [hiByte a, loByte a]
  | .divxInd a => [hiByte a, loByte a]
  | .divxReg r => [r]
  | .movImmAbs v dst => [v, hiByte dst, loByte dst]
  | .movAbsAbs src dst => [hiByte src, loByte src, hiByte dst, loByte dst]
  | .movIndAbs src dst => [hiByte src, loByte src, hiByte dst, loByte dst]
  | .movRegAbs rs dst => [rs, hiByte dst, loByte dst]
  | .movImmInd v dst => [v, hiByte dst, loByte dst]
  | .movAbsInd src dst => [hiByte src, loByte src, hiByte dst, loByte dst]
  | .movIndInd src dst => [hiByte src, loByte src, hiByte dst, loByte dst]
  | .movRegInd rs dst => [rs, hiByte dst, loByte dst]
  | .movImmReg v rd => [v, rd]
  | .movAbsReg src rd => [hiByte src, loByte src, rd]
  | .movIndReg src rd => [hiByte src, loByte src, rd]
  | .movRegReg rs rd => [rs, rd]
  | .movxImmAbs v dst => [hiByte v, loByte v, hiByte dst, loByte dst]
  | .movxAbsAbs src dst => [hiByte src, loByte src, hiByte dst, loByte dst]
  | .movxIndAbs src dst => [hiByte src, loByte src, hiByte dst, loByte dst]
  | .movxRegAbs rs dst => [rs, hiByte dst, loByte dst]
  | .movxImmInd v dst => [hiByte v, loByte v, hiByte dst, loByte dst]
  | .movxAbsInd src dst => [hiByte src, loByte src, hiByte dst, loByte dst]
  | .movxIndInd src dst => [hiByte src, loByte src, hiByte dst, loByte dst]
  | .movxRegInd rs dst => [rs, hiByte dst, loByte dst]
  | .movxImmReg v rd => [hiByte v, loByte v, rd]
  | .movxAbsReg src rd => [hiByte src, loByte src, rd]
  | .movxIndReg src rd => [hiByte src, loByte src, rd]
  | .movxRegReg rs rd => [rs, rd]

/-- The encoder: the bytes of an instruction (R52, R53). -/
def encode (cfg : Config) (i : Instr) : List Byte := i.opcode.toByte cfg :: i.operandBytes

end Sys2Proof
end

