-- ==== Sys2Proof/Machine/Fetch.lean ====
section
/-! DEFINITION. Fetching an instruction (`70_reset_and_hazards.md` R227, `00_scope.md` R6), and putting one where the
next step fetches. -/

namespace Sys2Proof.Machine

/-- `fetch(k)`: byte k of the instruction at PC; the address wraps (`10_state.md` R17, entry 19). Fetch reads the same
memory as data (`20_memory.md` R44, entry 29). -/
def State.fetchByte (s : State) (k : Nat) : Byte := s.mem.read (s.pc + BitVec.ofNat 16 k)

/-- The instruction at PC (R227): the opcode is fetched and looked up, a blank cell raises IllegalOpcode (R61), then the
bytes of the instruction's own length are fetched and no more. UNVERIFIED, safe: decision D4, entry 31. -/
def State.fetchInstr (s : State) : Except Stop Instr := do
  s.access s.pc
  match decode s.cfg s.fetchByte with
  | .error (.illegalOpcode b) => .error (.raise (.illegalOpcode b))
  | .ok i => do
    s.accessFrom s.pc i.length
    return i

/-- The bytes of a list stored one after the other from an address on; the address wraps (R46). -/
def Memory.writeBytes (m : Memory) (a : Addr) : List Byte → Memory
  | [] => m
  | b :: bs => Memory.writeBytes (m.write a b) (a + 1) bs

/-- The bytes of an instruction whose bits are `w`, bit 0 the least significant of the first byte, bits from `nbits` up
0, to the longest length of five bytes (`30_encoding.md` R50). -/
def bytesOfTableWord (nbits w : Nat) : List Byte :=
  (List.range 5).map (byteOfBits (w % 2 ^ nbits))

end Sys2Proof.Machine
end

