-- ==== Sys2Proof/Machine/Step.lean ====
section
/-! DEFINITION. The step: the only transition the machine has (`70_reset_and_hazards.md` R227). -/

namespace Sys2Proof.Machine

/-- One step (R227). A machine that is not running has no step: it answers a stuck outcome (`10_state.md` R29, entry
14). Every meaning advances PC itself, so the step adds nothing around it. -/
def step (s : State) : Host.Outcome State Fault Refusal :=
  match s.run with
  | .halted => .fault .halted
  | .faulted r pc => .fault (.faulted r pc)
  | .running =>
    match s.fetchInstr with
    | .error e => s.stop e
    | .ok i => exec i s

/-- `s` with an instruction's bits stored at PC, where the next step fetches (entry 15). -/
def State.withFetchWord (s : State) (nbits w : Nat) : State :=
  s.setMem (s.mem.writeBytes s.pc (bytesOfTableWord nbits w))

end Sys2Proof.Machine
end

