-- ==== Sys2Proof/WellFormed.lean ====
section
/-! DEFINITION. Well-formed instructions and well-formed parameters. -/

namespace Sys2Proof

/-- A register operand byte together with the map that reads it (`30_encoding.md` R57). -/
inductive RegOperand where
  /-- Read through `REGCODE8`. -/
  | code8 (b : Byte)
  /-- Read through `REGCODE16`. -/
  | code16 (b : Byte)
deriving DecidableEq, Repr

/-- The register operands of an instruction, in byte order (R52, R57). -/
def Instr.regOperands : Instr → List RegOperand
  | .nop => []
  | .hcf => []
  | .push => []
  | .pop => []
  | .swp r1 r2 => [.code8 r1, .code8 r2]
  | .addImm _ => []
  | .addAbs _ => []
  | .addInd _ => []
  | .addReg r => [.code8 r]
  | .addxImm _ => []
  | .addxAbs _ => []
  | .addxInd _ => []
  | .addxReg r => [.code16 r]
  | .subImm _ => []
  | .subAbs _ => []
  | .subInd _ => []
  | .subReg r => [.code8 r]
  | .subxImm _ => []
  | .subxAbs _ => []
  | .subxInd _ => []
  | .subxReg r => [.code16 r]
  | .mulImm _ => []
  | .mulAbs _ => []
  | .mulInd _ => []
  | .mulReg r => [.code8 r]
  | .mulxImm _ => []
  | .mulxAbs _ => []
  | .mulxInd _ => []
  | .mulxReg r => [.code16 r]
  | .divImm _ => []
  | .divAbs _ => []
  | .divInd _ => []
  | .divReg r => [.code8 r]
  | .divxImm _ => []
  | .divxAbs _ => []
  | .divxInd _ => []
  | .divxReg r => [.code16 r]
  | .movImmAbs _ _ => []
  | .movAbsAbs _ _ => []
  | .movIndAbs _ _ => []
  | .movRegAbs rs _ => [.code8 rs]
  | .movImmInd _ _ => []
  | .movAbsInd _ _ => []
  | .movIndInd _ _ => []
  | .movRegInd rs _ => [.code8 rs]
  | .movImmReg _ rd => [.code8 rd]
  | .movAbsReg _ rd => [.code8 rd]
  | .movIndReg _ rd => [.code8 rd]
  | .movRegReg rs rd => [.code8 rs, .code8 rd]
  | .movxImmAbs _ _ => []
  | .movxAbsAbs _ _ => []
  | .movxIndAbs _ _ => []
  | .movxRegAbs rs _ => [.code16 rs]
  | .movxImmInd _ _ => []
  | .movxAbsInd _ _ => []
  | .movxIndInd _ _ => []
  | .movxRegInd rs _ => [.code16 rs]
  | .movxImmReg _ rd => [.code16 rd]
  | .movxAbsReg _ rd => [.code16 rd]
  | .movxIndReg _ rd => [.code16 rd]
  | .movxRegReg rs rd => [.code16 rs, .code16 rd]

/-- The map of its width names a register for the byte (R59). -/
def RegOperand.mapped (cfg : Config) : RegOperand → Bool
  | .code8 b => (cfg.reg8 b).isSome
  | .code16 b => (cfg.reg16 b).isSome

/-- An instruction is well-formed under `cfg` when every register operand byte names a register (R62). Every other
operand may hold any value (R63). -/
def Instr.wf (cfg : Config) (i : Instr) : Bool := i.regOperands.all (·.mapped cfg)

/-- All twelve forms of MOV, in no order that matters (`42_data_memory.md` R160). -/
def allMovForms : List MovForm :=
  [SrcMode.imm, .abs, .ind, .reg].flatMap fun s => [DstMode.abs, .ind, .reg].map fun d => ⟨s, d⟩

/-- An assignment of the twelve forms to twelve cells is one to one and onto (`92_eei_decisions.md` D1: a bijection). -/
def movOpcodesWf (l : List MovForm) : Bool :=
  l.length == 12 && decide l.Nodup && allMovForms.all (· ∈ l)

/-- `MOV_OPCODES` is a bijection for MOV and for MOVX (D1). The other parameters may hold any value. -/
def Config.wf (cfg : Config) : Bool := movOpcodesWf cfg.movForms && movOpcodesWf cfg.movxForms

end Sys2Proof
end

