-- ==== Sys2Proof/Safety.lean ====
section
/-! DEFINITION. What claims about the machine are said in: safe ends of a run, the footprint of an instruction, the
invariant, and the operand forms of a family. Nothing of the machine depends on this file. -/

namespace Sys2Proof.Machine

/-- Every address is plain RAM: the default `MEM_MAP`, and any map that says the same (`20_memory.md` R30). -/
abbrev State.AllRam (s : State) : Prop := ∀ a : Addr, s.cfg.kindAt a = .ram

/-- n steps, ending at the first that answers no next state (`70_reset_and_hazards.md` R226). -/
def runSteps : Nat → State → Host.Outcome State Fault Refusal
  | 0, s => .next s
  | n + 1, s =>
    match step s with
    | .next t => runSteps n t
    | .fault f => .fault f
    | .refused r => .refused r

/-- A run of n steps ends well: the run state is `Halted` (R226). -/
def EndsWell (n : Nat) (s t : State) : Prop := runSteps n s = .next t ∧ t.run = .halted

/-- A run of n steps ends badly: the run state is `Faulted` (R226). -/
def EndsBadly (n : Nat) (s t : State) : Prop := runSteps n s = .next t ∧ ∃ r p, t.run = .faulted r p

/-! ## Footprints -/

/-- The flag masks of `10_state.md` R19: whether N and Z are written. -/
def writesNZ : Opcode → Bool
  | .nop => false
  | .hcf => false
  | .push => true
  | .pop => true
  | .swp => true
  | .alu _ _ _ => true
  | .mov _ _ => true

/-- The flag masks of R19: whether O and C are written. -/
def writesCO : Opcode → Bool
  | .nop => false
  | .hcf => false
  | .push => false
  | .pop => false
  | .swp => false
  | .alu _ _ _ => true
  | .mov _ _ => false

/-- The two halves of a pair, if there is one. -/
def pairHalves (j : Option Reg16) : List Reg8 :=
  match j with
  | none => []
  | some j => [pairHigh j, pairLow j]

/-- The general registers an instruction may write (`10_state.md` R14). -/
def registersWritten (cfg : Config) : Instr → List Reg8
  | .nop => []
  | .hcf => []
  | .push => []
  | .pop => [.a]
  | .swp r1 r2 => (cfg.reg8 r1).toList ++ (cfg.reg8 r2).toList
  | .addImm _ => [.a]
  | .addAbs _ => [.a]
  | .addInd _ => [.a]
  | .addReg _ => [.a]
  | .addxImm _ => [.a, .b]
  | .addxAbs _ => [.a, .b]
  | .addxInd _ => [.a, .b]
  | .addxReg _ => [.a, .b]
  | .subImm _ => [.a]
  | .subAbs _ => [.a]
  | .subInd _ => [.a]
  | .subReg _ => [.a]
  | .subxImm _ => [.a, .b]
  | .subxAbs _ => [.a, .b]
  | .subxInd _ => [.a, .b]
  | .subxReg _ => [.a, .b]
  | .mulImm _ => [.a]
  | .mulAbs _ => [.a]
  | .mulInd _ => [.a]
  | .mulReg _ => [.a]
  | .mulxImm _ => [.a, .b]
  | .mulxAbs _ => [.a, .b]
  | .mulxInd _ => [.a, .b]
  | .mulxReg _ => [.a, .b]
  | .divImm _ => [.a, .b]
  | .divAbs _ => [.a, .b]
  | .divInd _ => [.a, .b]
  | .divReg _ => [.a, .b]
  | .divxImm _ => [.a, .b, .c, .d]
  | .divxAbs _ => [.a, .b, .c, .d]
  | .divxInd _ => [.a, .b, .c, .d]
  | .divxReg _ => [.a, .b, .c, .d]
  | .movImmAbs _ _ => []
  | .movAbsAbs _ _ => []
  | .movIndAbs _ _ => []
  | .movRegAbs _ _ => []
  | .movImmInd _ _ => []
  | .movAbsInd _ _ => []
  | .movIndInd _ _ => []
  | .movRegInd _ _ => []
  | .movImmReg _ rd => (cfg.reg8 rd).toList
  | .movAbsReg _ rd => (cfg.reg8 rd).toList
  | .movIndReg _ rd => (cfg.reg8 rd).toList
  | .movRegReg _ rd => (cfg.reg8 rd).toList
  | .movxImmAbs _ _ => []
  | .movxAbsAbs _ _ => []
  | .movxIndAbs _ _ => []
  | .movxRegAbs _ _ => []
  | .movxImmInd _ _ => []
  | .movxAbsInd _ _ => []
  | .movxIndInd _ _ => []
  | .movxRegInd _ _ => []
  | .movxImmReg _ rd => pairHalves (cfg.reg16 rd)
  | .movxAbsReg _ rd => pairHalves (cfg.reg16 rd)
  | .movxIndReg _ rd => pairHalves (cfg.reg16 rd)
  | .movxRegReg _ rd => pairHalves (cfg.reg16 rd)

/-- The bytes MOV stores and where: Data at the address its destination operand comes to, if that is memory (R161). -/
def storedByMov (s : State) (src : Src 8 Byte) (dst : Dst Byte) : List (Addr × Byte) :=
  match src.read8 s, dst.resolve8 s with
  | .ok v, .ok (.mem q) => [(q, v)]
  | .ok _, .ok (.reg _) => []
  | .ok _, .error _ => []
  | .error _, _ => []

/-- The bytes MOVX stores and where: the high byte of Data at the address its destination operand comes to, the low byte
at the next. -/
def storedByMovx (s : State) (src : Src 16 Byte) (dst : Dst Byte) : List (Addr × Byte) :=
  match src.read16 s, dst.resolve16 s with
  | .ok v, .ok (.mem q) => [(q, hiByte v), (q + 1, loByte v)]
  | .ok _, .ok (.reg _) => []
  | .ok _, .error _ => []
  | .error _, _ => []

/-- The bytes an instruction stores and where, from the state it starts in (`20_memory.md` R37). -/
def storedCells (s : State) : Instr → List (Addr × Byte)
  | .nop => []
  | .hcf => []
  | .push => [(s.sp + 1, s.regs.a)]
  | .pop => []
  | .swp _ _ => []
  | .addImm _ => []
  | .addAbs _ => []
  | .addInd _ => []
  | .addReg _ => []
  | .addxImm _ => []
  | .addxAbs _ => []
  | .addxInd _ => []
  | .addxReg _ => []
  | .subImm _ => []
  | .subAbs _ => []
  | .subInd _ => []
  | .subReg _ => []
  | .subxImm _ => []
  | .subxAbs _ => []
  | .subxInd _ => []
  | .subxReg _ => []
  | .mulImm _ => []
  | .mulAbs _ => []
  | .mulInd _ => []
  | .mulReg _ => []
  | .mulxImm _ => []
  | .mulxAbs _ => []
  | .mulxInd _ => []
  | .mulxReg _ => []
  | .divImm _ => []
  | .divAbs _ => []
  | .divInd _ => []
  | .divReg _ => []
  | .divxImm _ => []
  | .divxAbs _ => []
  | .divxInd _ => []
  | .divxReg _ => []
  | .movImmAbs v dst => storedByMov s (.imm v) (.abs dst)
  | .movAbsAbs src dst => storedByMov s (.abs src) (.abs dst)
  | .movIndAbs src dst => storedByMov s (.ind src) (.abs dst)
  | .movRegAbs rs dst => storedByMov s (.reg rs) (.abs dst)
  | .movImmInd v dst => storedByMov s (.imm v) (.ind dst)
  | .movAbsInd src dst => storedByMov s (.abs src) (.ind dst)
  | .movIndInd src dst => storedByMov s (.ind src) (.ind dst)
  | .movRegInd rs dst => storedByMov s (.reg rs) (.ind dst)
  | .movImmReg v rd => storedByMov s (.imm v) (.reg rd)
  | .movAbsReg src rd => storedByMov s (.abs src) (.reg rd)
  | .movIndReg src rd => storedByMov s (.ind src) (.reg rd)
  | .movRegReg rs rd => storedByMov s (.reg rs) (.reg rd)
  | .movxImmAbs v dst => storedByMovx s (.imm v) (.abs dst)
  | .movxAbsAbs src dst => storedByMovx s (.abs src) (.abs dst)
  | .movxIndAbs src dst => storedByMovx s (.ind src) (.abs dst)
  | .movxRegAbs rs dst => storedByMovx s (.reg rs) (.abs dst)
  | .movxImmInd v dst => storedByMovx s (.imm v) (.ind dst)
  | .movxAbsInd src dst => storedByMovx s (.abs src) (.ind dst)
  | .movxIndInd src dst => storedByMovx s (.ind src) (.ind dst)
  | .movxRegInd rs dst => storedByMovx s (.reg rs) (.ind dst)
  | .movxImmReg v rd => storedByMovx s (.imm v) (.reg rd)
  | .movxAbsReg src rd => storedByMovx s (.abs src) (.reg rd)
  | .movxIndReg src rd => storedByMovx s (.ind src) (.reg rd)
  | .movxRegReg rs rd => storedByMovx s (.reg rs) (.reg rd)

/-- The addresses an instruction stores to, from the state it starts in. -/
def storedBytes (s : State) (i : Instr) : List Addr := (storedCells s i).map Prod.fst

/-! ## The invariant -/

/-- The byte of a register operand. -/
def operandByte : RegOperand → Byte
  | .code8 b => b
  | .code16 b => b

/-- What a recorded fault says of the state it left unchanged (`60_exceptions.md` R200, R203). -/
def faultExplained (s : State) : FaultReason → Prop
  | .illegalOpcode b => s.mem.read s.pc = b ∧ Opcode.ofByte s.cfg b = none
  | .illegalRegister b =>
    ∃ i, decode s.cfg s.fetchByte = .ok i ∧ ∃ x ∈ i.regOperands, operandByte x = b ∧ x.mapped s.cfg = false
  | .divideByZero => ∃ w m, Opcode.ofByte s.cfg (s.mem.read s.pc) = some (.alu .div w m)

/-- Memory is in canonical form, and the run state agrees with the rest: a halted machine stands one past an HCF
(`41_control_flow.md` R150), a faulted one at the opcode of an instruction that raises what it recorded (R203). -/
def State.Coherent (s : State) : Prop :=
  s.mem.wf = true ∧
  match s.run with
  | .running => True
  | .halted => s.mem.read (s.pc - 1) = 0x01
  | .faulted r p => p = s.pc ∧ faultExplained s r

/-! ## Operands in the instruction stream -/

/-- A 16-bit operand at instruction bytes k and k + 1, the high byte first (`30_encoding.md` R31). -/
def wordAt (f : Nat → Byte) (k : Nat) (w : Word) : Prop := w.toNat = 256 * (f k).toNat + (f (k + 1)).toNat

/-- Where the operands of each instruction stand in its bytes (R53). -/
def operandsAt (f : Nat → Byte) : Instr → Prop
  | .nop => True
  | .hcf => True
  | .push => True
  | .pop => True
  | .swp r1 r2 => r1 = f 1 ∧ r2 = f 2
  | .addImm v => v = f 1
  | .addAbs a => wordAt f 1 a
  | .addInd a => wordAt f 1 a
  | .addReg r => r = f 1
  | .addxImm v => wordAt f 1 v
  | .addxAbs a => wordAt f 1 a
  | .addxInd a => wordAt f 1 a
  | .addxReg r => r = f 1
  | .subImm v => v = f 1
  | .subAbs a => wordAt f 1 a
  | .subInd a => wordAt f 1 a
  | .subReg r => r = f 1
  | .subxImm v => wordAt f 1 v
  | .subxAbs a => wordAt f 1 a
  | .subxInd a => wordAt f 1 a
  | .subxReg r => r = f 1
  | .mulImm v => v = f 1
  | .mulAbs a => wordAt f 1 a
  | .mulInd a => wordAt f 1 a
  | .mulReg r => r = f 1
  | .mulxImm v => wordAt f 1 v
  | .mulxAbs a => wordAt f 1 a
  | .mulxInd a => wordAt f 1 a
  | .mulxReg r => r = f 1
  | .divImm v => v = f 1
  | .divAbs a => wordAt f 1 a
  | .divInd a => wordAt f 1 a
  | .divReg r => r = f 1
  | .divxImm v => wordAt f 1 v
  | .divxAbs a => wordAt f 1 a
  | .divxInd a => wordAt f 1 a
  | .divxReg r => r = f 1
  | .movImmAbs v dst => v = f 1 ∧ wordAt f 2 dst
  | .movAbsAbs src dst => wordAt f 1 src ∧ wordAt f 3 dst
  | .movIndAbs src dst => wordAt f 1 src ∧ wordAt f 3 dst
  | .movRegAbs rs dst => rs = f 1 ∧ wordAt f 2 dst
  | .movImmInd v dst => v = f 1 ∧ wordAt f 2 dst
  | .movAbsInd src dst => wordAt f 1 src ∧ wordAt f 3 dst
  | .movIndInd src dst => wordAt f 1 src ∧ wordAt f 3 dst
  | .movRegInd rs dst => rs = f 1 ∧ wordAt f 2 dst
  | .movImmReg v rd => v = f 1 ∧ rd = f 2
  | .movAbsReg src rd => wordAt f 1 src ∧ rd = f 3
  | .movIndReg src rd => wordAt f 1 src ∧ rd = f 3
  | .movRegReg rs rd => rs = f 1 ∧ rd = f 2
  | .movxImmAbs v dst => wordAt f 1 v ∧ wordAt f 3 dst
  | .movxAbsAbs src dst => wordAt f 1 src ∧ wordAt f 3 dst
  | .movxIndAbs src dst => wordAt f 1 src ∧ wordAt f 3 dst
  | .movxRegAbs rs dst => rs = f 1 ∧ wordAt f 2 dst
  | .movxImmInd v dst => wordAt f 1 v ∧ wordAt f 3 dst
  | .movxAbsInd src dst => wordAt f 1 src ∧ wordAt f 3 dst
  | .movxIndInd src dst => wordAt f 1 src ∧ wordAt f 3 dst
  | .movxRegInd rs dst => rs = f 1 ∧ wordAt f 2 dst
  | .movxImmReg v rd => wordAt f 1 v ∧ rd = f 3
  | .movxAbsReg src rd => wordAt f 1 src ∧ rd = f 3
  | .movxIndReg src rd => wordAt f 1 src ∧ rd = f 3
  | .movxRegReg rs rd => rs = f 1 ∧ rd = f 2

/-! ## The operand forms of a family -/

/-- An instruction with an 8-bit source operand of value `v`, given by its four forms, completes in the state `t n`,
`n` being its length: `lenB` where the source takes one byte, `lenW` where it takes two (`30_encoding.md` R54 to
R57). -/
def FromAnySource8 (s : State) (v : Byte) (imm : Byte → Instr) (abs ind : Addr → Instr) (reg : Byte → Instr)
    (lenB lenW : Addr) (t : Addr → State) : Prop :=
  exec (imm v) s = .next (t lenB) ∧
  (∀ a, s.AllRam → s.mem.read a = v → exec (abs a) s = .next (t lenW)) ∧
  (∀ a, s.AllRam → s.mem.read (s.mem.read16 a) = v → exec (ind a) s = .next (t lenW)) ∧
  (∀ b r, s.cfg.reg8 b = some r → s.regs.get r = v → exec (reg b) s = .next (t lenB))

/-- The same for a 16-bit source operand, whose immediate takes two bytes. -/
def FromAnySource16 (s : State) (v : Word) (imm : Word → Instr) (abs ind : Addr → Instr) (reg : Byte → Instr)
    (lenB lenW : Addr) (t : Addr → State) : Prop :=
  exec (imm v) s = .next (t lenW) ∧
  (∀ a, s.AllRam → s.mem.read16 a = v → exec (abs a) s = .next (t lenW)) ∧
  (∀ a, s.AllRam → s.mem.read16 (s.mem.read16 a) = v → exec (ind a) s = .next (t lenW)) ∧
  (∀ b r, s.cfg.reg16 b = some r → s.regs.getPair r = v → exec (reg b) s = .next (t lenB))

end Sys2Proof.Machine
end

