-- ==== Sys2Proof/Certificates/Slice0/Obligations.lean ====
section
/-! DEFINITION. The statements. In a docstring, "decision D<n>" is a row of `92_eei_decisions.md`: what the statement says
there is the spec's own decision and not the source's, and the entry is the row of `notes/assumptions/` that names it. -/

open Sys2Proof Sys2Proof.Machine

/-! ## Decoding and encoding -/

/-- Decoding the encoding of any instruction gives that instruction back, every operand at every value, and leaves the
bytes after it. `MOV_OPCODES` may be any bijection (decision D1, entry 8). -/
def Obligations.DecodeInvertsEncode : Prop :=
  ∀ (cfg : Config) (i : Instr) (rest : List Byte), cfg.wf = true →
    decodeBytes cfg (encode cfg i ++ rest) = .ok (i, rest)

/-- Encoding what was decoded gives the bytes read: no two byte strings are one instruction. -/
def Obligations.EncodeInvertsDecode : Prop :=
  ∀ (cfg : Config) (bs rest : List Byte) (i : Instr), cfg.wf = true →
    decodeBytes cfg bs = .ok (i, rest) → encode cfg i ++ rest = bs

/-- R50: an instruction is one to five bytes, its first byte the opcode; the opcode byte alone decides whether there
is an instruction, which (with its mode and width, `Instr.opcode`) and how long, and no byte past that length matters;
the bytes after the opcode are the operand bytes in order, each one operand or half of a 16-bit one. -/
def Obligations.OpcodeByteAloneSelects : Prop :=
  ∀ (cfg : Config) (f g : Nat → Byte) (i : Instr), decode cfg f = .ok i → f 0 = g 0 →
    (∃ j, decode cfg g = .ok j ∧ j.opcode = i.opcode ∧ j.length = i.length) ∧
    1 ≤ i.length ∧ i.length ≤ 5 ∧
    ((∀ k, k < i.length → f k = g k) → decode cfg g = .ok i) ∧
    i.operandBytes = (List.range (i.length - 1)).map (fun k => f (k + 1))

/-- R31: every 16-bit operand of every instruction, immediate or address, is the two bytes at its place with the high
byte first; the one-byte operands stand at theirs. -/
def Obligations.OperandsStandHighByteFirst : Prop :=
  ∀ (cfg : Config) (f : Nat → Byte) (i : Instr), decode cfg f = .ok i → operandsAt f i

/-- R51: the opcode map, cell by cell: which mnemonic stands where, and the 195 blank cells. -/
def Obligations.OpcodeMapCells : Prop :=
  ∀ (cfg : Config) (b : Byte), cfg.wf = true →
    (Opcode.ofByte cfg b).map Opcode.mnemonic =
      (if b = 0x00 then some "NOP" else if b = 0x01 then some "HCF" else if b = 0x02 then some "PUSH"
       else if b = 0x03 then some "POP" else if b = 0x04 then some "SWP"
       else if b.toNat < 0x10 then none
       else if b.toNat < 0x14 then some "ADD" else if b.toNat < 0x18 then some "ADDX"
       else if b.toNat < 0x1C then some "SUB" else if b.toNat < 0x20 then some "SUBX"
       else if b.toNat < 0x24 then some "MUL" else if b.toNat < 0x28 then some "MULX"
       else if b.toNat < 0x2C then some "DIV" else if b.toNat < 0x30 then some "DIVX"
       else if b.toNat < 0x3C then some "MOV" else if b.toNat < 0x40 then none
       else if b.toNat < 0x4C then some "MOVX" else none)

/-- The length column of R64 under the default `MOV_OPCODES` (decision D1, entry 8), by ranges of the opcode byte and,
for 0x10 to 0x2F, by its low bits. -/
def Obligations.LengthFromOpcodeByte : Prop :=
  ∀ (f : Nat → Byte) (i : Instr), decode Config.default f = .ok i →
    i.length =
      (if (f 0).toNat < 0x04 then 1 else if f 0 = 0x04 then 3
       else if (f 0).toNat < 0x30 then
         (if (f 0).toNat % 4 = 3 then 2 else if (f 0).toNat % 8 = 0 then 2 else 3)
       else if f 0 = 0x38 ∨ f 0 = 0x3B ∨ f 0 = 0x4B then 3
       else if f 0 = 0x30 ∨ f 0 = 0x33 ∨ f 0 = 0x34 ∨ f 0 = 0x37 ∨ f 0 = 0x39 ∨ f 0 = 0x3A then 4
       else if f 0 = 0x43 ∨ f 0 = 0x47 ∨ f 0 = 0x48 ∨ f 0 = 0x49 ∨ f 0 = 0x4A then 4
       else 5)

/-- Words written out from R52, one or more of every family, decode to the instruction they stand for, under the
default parameters (decisions D1 and D2, entries 7 and 8). -/
def Obligations.SampleWordsDecode : Prop :=
  decodeTableWord 8 0x00 = some .nop ∧
  decodeTableWord 8 0x01 = some .hcf ∧
  decodeTableWord 8 0x02 = some .push ∧
  decodeTableWord 8 0x03 = some .pop ∧
  decodeTableWord 24 0x070104 = some (.swp 0x01 0x07) ∧
  decodeTableWord 16 0x0110 = some (.addImm 0x01) ∧
  decodeTableWord 24 0x341215 = some (.addxAbs 0x1234) ∧
  decodeTableWord 24 0x34121A = some (.subInd 0x1234) ∧
  decodeTableWord 24 0x02011C = some (.subxImm 0x0102) ∧
  decodeTableWord 16 0x0523 = some (.mulReg 0x05) ∧
  decodeTableWord 24 0x001026 = some (.mulxInd 0x1000) ∧
  decodeTableWord 24 0x341229 = some (.divAbs 0x1234) ∧
  decodeTableWord 16 0x012F = some (.divxReg 0x01) ∧
  decodeTableWord 32 0x00305A34 = some (.movImmInd 0x5A 0x3000) ∧
  decodeTableWord 40 0x0030001031 = some (.movAbsAbs 0x1000 0x3000) ∧
  decodeTableWord 32 0x02341248 = some (.movxImmReg 0x1234 0x02) ∧
  decodeTableWord 8 0x05 = none

/-! ## The step -/

/-- When the bytes at PC decode to an instruction and its bytes are RAM, the step is that instruction's meaning, with
nothing around it: every meaning advances PC itself. -/
def Obligations.StepRunsDecodedInstruction : Prop :=
  ∀ (s : State) (i : Instr), s.run = .running → decode s.cfg s.fetchByte = .ok i →
    (∀ k, k < i.length → s.cfg.kindAt (s.pc + BitVec.ofNat 16 k) = .ram) →
    step s = exec i s

/-- The same for the bytes of an encoding laid out from PC on: the step of a machine that holds `encode` of an
instruction at PC is that instruction's meaning. -/
def Obligations.StepRunsEncodedInstruction : Prop :=
  ∀ (s : State) (i : Instr), s.run = .running → s.cfg.wf = true → s.AllRam →
    (∀ k, k < i.length → s.mem.read (s.pc + BitVec.ofNat 16 k) = (encode s.cfg i).getD k 0) →
    step s = exec i s

/-- R205: a machine that took a fault, or that HCF stopped, has no next state: no return, no nesting. -/
def Obligations.StoppedMachineHasNoStep : Prop :=
  ∀ (s t : State), s.run ≠ .running → step s ≠ .next t

/-- A blank cell of the opcode map at PC: the step takes `IllegalOpcode` of that byte and changes nothing but the run
state, which records the byte and PC (decisions D4 and D30, entries 13 and 31). -/
def Obligations.BlankOpcodeFaults : Prop :=
  ∀ (s : State) (b : Byte), s.run = .running → s.cfg.kindAt s.pc = .ram → s.mem.read s.pc = b →
    ((0x05 ≤ b.toNat ∧ b.toNat ≤ 0x0F) ∨ (0x3C ≤ b.toNat ∧ b.toNat ≤ 0x3F) ∨ 0x4C ≤ b.toNat) →
    step s = .next { s with run := .faulted (.illegalOpcode b) s.pc }

/-- R189: a zero byte at PC is a NOP: the step changes PC only, past 0xFFFF to 0x0000, and memory that is zero from PC
on neither faults nor halts for as many steps as it reaches, all of memory included. -/
def Obligations.NopChangesOnlyPc : Prop :=
  (∀ s : State, exec .nop s = .next { s with pc := s.pc + 1 }) ∧
  ∀ (s : State) (n : Nat), s.run = .running →
    (∀ k, k < n → s.cfg.kindAt (s.pc + BitVec.ofNat 16 k) = .ram ∧ s.mem.read (s.pc + BitVec.ofNat 16 k) = 0x00) →
    runSteps n s = .next { s with pc := s.pc + BitVec.ofNat 16 n }

/-- A good end of a run is final and no other end comes first: a run that has ended `Halted` after n steps answers the
stuck outcome at every later count, and at no count has it ended badly (decisions D18 and D33, entries 14 and 27). -/
def Obligations.GoodEndIsFinal : Prop :=
  ∀ (n : Nat) (s t : State), EndsWell n s t →
    (∀ m, n < m → runSteps m s = .fault .halted) ∧ ∀ m u, ¬ EndsBadly m s u

/-- HCF: the run state becomes `Halted`, PC goes one past, nothing else changes (decision D18, entry 27). -/
def Obligations.HcfHalts : Prop :=
  ∀ s : State, exec .hcf s = .next { s with run := .halted, pc := s.pc + 1 }

/-! ## Arithmetic: results, flags and frame

Each of these gives the whole next state, so it says as well that the instruction completes and that nothing else
changes. -/

/-- The state after ADD, SUB or MUL with result `res`: A, the flags Z N C O and PC, and nothing else. -/
def afterArith8 (s : State) (res : Byte) (c o : Bool) (len : Addr) : State :=
  { s with
    regs := { s.regs with a := res }
    flags := { s.flags with z := decide (res = 0), n := decide (128 ≤ res.toNat), c := c, o := o }
    pc := s.pc + len }

/-- The state after ADDX, SUBX or MULX with result `res`: A and B, the flags Z N C O and PC, and nothing else. -/
def afterArith16 (s : State) (res : Word) (c o : Bool) (len : Addr) : State :=
  { s with
    regs := { s.regs with a := hiByte res, b := loByte res }
    flags := { s.flags with z := decide (res = 0), n := decide (32768 ≤ res.toNat), c := c, o := o }
    pc := s.pc + len }

/-- ADD, all four forms: A becomes the wrapped sum; C is the carry out and O the signed overflow, in the xor form of
R101 (decisions D10, D11 and D12, entries 21 and 22), under the default `FLAGS_ARITH`; under another, C and O are
whatever it gives. -/
def Obligations.AddFormsComplete : Prop :=
  ∀ (s : State) (d : Byte), ∃ c o : Bool,
    (s.cfg.flagsArith = .formulas →
      c = decide (256 ≤ s.regs.a.toNat + d.toNat) ∧
      o = ((s.regs.a ^^^ (s.regs.a + d)) &&& (d ^^^ (s.regs.a + d))).msb) ∧
    FromAnySource8 s d .addImm .addAbs .addInd .addReg 2 3 (afterArith8 s (s.regs.a + d) c o)

/-- ADDX, all four forms, on AB (decisions D5, D10, D11 and D12, entries 16, 21 and 22). -/
def Obligations.AddxFormsComplete : Prop :=
  ∀ (s : State) (d ab : Word), s.regs.getPair .ab = ab → ∃ c o : Bool,
    (s.cfg.flagsArith = .formulas →
      c = decide (65536 ≤ ab.toNat + d.toNat) ∧ o = ((ab ^^^ (ab + d)) &&& (d ^^^ (ab + d))).msb) ∧
    FromAnySource16 s d .addxImm .addxAbs .addxInd .addxReg 2 3 (afterArith16 s (ab + d) c o)

/-- SUB, all four forms: A becomes the wrapped difference; C is 1 exactly on a borrow and O on signed overflow, in the
xor form of R102 (decisions D10, D11 and D12, entries 21 and 22). -/
def Obligations.SubFormsComplete : Prop :=
  ∀ (s : State) (d : Byte), ∃ c o : Bool,
    (s.cfg.flagsArith = .formulas →
      c = decide (s.regs.a.toNat < d.toNat) ∧
      o = ((s.regs.a ^^^ d) &&& (s.regs.a ^^^ (s.regs.a - d))).msb) ∧
    FromAnySource8 s d .subImm .subAbs .subInd .subReg 2 3 (afterArith8 s (s.regs.a - d) c o)

/-- SUBX, all four forms, on AB (decisions D5, D10, D11 and D12, entries 16, 21 and 22). -/
def Obligations.SubxFormsComplete : Prop :=
  ∀ (s : State) (d ab : Word), s.regs.getPair .ab = ab → ∃ c o : Bool,
    (s.cfg.flagsArith = .formulas →
      c = decide (ab.toNat < d.toNat) ∧ o = ((ab ^^^ d) &&& (ab ^^^ (ab - d))).msb) ∧
    FromAnySource16 s d .subxImm .subxAbs .subxInd .subxReg 2 3 (afterArith16 s (ab - d) c o)

/-- MUL, all four forms: A becomes the low byte of the product and no register its high half; C says the unsigned
product does not fit, O that the signed product is not the signed reading of the result (decisions D10 and D13,
entries 21 and 23). -/
def Obligations.MulFormsComplete : Prop :=
  ∀ (s : State) (d : Byte), ∃ c o : Bool,
    (s.cfg.flagsArith = .formulas →
      c = decide (256 ≤ s.regs.a.toNat * d.toNat) ∧
      o = decide ((s.regs.a * d).toInt ≠ s.regs.a.toInt * d.toInt)) ∧
    FromAnySource8 s d .mulImm .mulAbs .mulInd .mulReg 2 3 (afterArith8 s (s.regs.a * d) c o)

/-- MULX, all four forms, on AB (decisions D5, D10 and D13, entries 16, 21 and 23). -/
def Obligations.MulxFormsComplete : Prop :=
  ∀ (s : State) (d ab : Word), s.regs.getPair .ab = ab → ∃ c o : Bool,
    (s.cfg.flagsArith = .formulas →
      c = decide (65536 ≤ ab.toNat * d.toNat) ∧ o = decide ((ab * d).toInt ≠ ab.toInt * d.toInt)) ∧
    FromAnySource16 s d .mulxImm .mulxAbs .mulxInd .mulxReg 2 3 (afterArith16 s (ab * d) c o)

/-- DIV by a divisor that is not 0, all four forms: A becomes the quotient and B the remainder, the only two bytes with
A = q * d + r and r < d; Z and N from the quotient, C and O 0 (decisions D10 and D14, entries 21 and 24), under the
default `FLAGS_ARITH`. `DIV_SIGNED` is at its default. -/
def Obligations.DivFormsComplete : Prop :=
  ∀ (s : State) (d q r : Byte), s.cfg.divSigned = false → s.regs.a.toNat = q.toNat * d.toNat + r.toNat →
    r.toNat < d.toNat → ∃ z n c o : Bool,
      (s.cfg.flagsArith = .formulas → z = decide (q = 0) ∧ n = decide (128 ≤ q.toNat) ∧ c = false ∧ o = false) ∧
      FromAnySource8 s d .divImm .divAbs .divInd .divReg 2 3 (fun len =>
        { s with
          regs := { s.regs with a := q, b := r }
          flags := { s.flags with z := z, n := n, c := c, o := o }
          pc := s.pc + len })

/-- DIVX by a divisor that is not 0, all four forms: AB becomes the quotient and CD the remainder (decisions D5, D10
and D14, entries 16, 21 and 24). -/
def Obligations.DivxFormsComplete : Prop :=
  ∀ (s : State) (d q r : Word), s.cfg.divSigned = false →
    (s.regs.getPair .ab).toNat = q.toNat * d.toNat + r.toNat → r.toNat < d.toNat → ∃ z n c o : Bool,
      (s.cfg.flagsArith = .formulas → z = decide (q = 0) ∧ n = decide (32768 ≤ q.toNat) ∧ c = false ∧ o = false) ∧
      FromAnySource16 s d .divxImm .divxAbs .divxInd .divxReg 2 3 (fun len =>
        { s with
          regs := { s.regs with a := hiByte q, b := loByte q, c := hiByte r, d := loByte r }
          flags := { s.flags with z := z, n := n, c := c, o := o }
          pc := s.pc + len })

/-- Division by zero, all eight forms: the instruction takes `DivideByZero` and changes nothing but the run state
(decisions D15 and D30, entries 13 and 25). `DIV_SIGNED` is at its default. -/
def Obligations.ZeroDivisorFaults : Prop :=
  ∀ s : State, s.cfg.divSigned = false →
    FromAnySource8 s 0 .divImm .divAbs .divInd .divReg 2 3 (fun _ => { s with run := .faulted .divideByZero s.pc }) ∧
    FromAnySource16 s 0 .divxImm .divxAbs .divxInd .divxReg 2 3
      (fun _ => { s with run := .faulted .divideByZero s.pc })

/-- With `DIV_SIGNED` true, which the spec gives no rules for, no form of DIV or DIVX completes: it is refused by name
(the model's choice, entry 11). -/
def Obligations.SignedDivisionRefused : Prop :=
  ∀ (s : State) (i : Instr) (w : Width) (m : SrcMode), s.cfg.divSigned = true → s.AllRam → i.wf s.cfg = true →
    i.opcode = .alu .div w m → exec i s = .refused .signedDivision

/-- An unmapped register byte, all eight Register forms of the family: `IllegalRegister` of that byte, and nothing
but the run state changes; it comes before a zero divisor (decisions D3 and D30, entries 13 and 32). -/
def Obligations.UnmappedArithRegisterFaults : Prop :=
  ∀ (s t : State) (b : Byte), t = { s with run := .faulted (.illegalRegister b) s.pc } →
    (s.cfg.reg8 b = none →
      exec (.addReg b) s = .next t ∧ exec (.subReg b) s = .next t ∧ exec (.mulReg b) s = .next t ∧
      exec (.divReg b) s = .next t) ∧
    (s.cfg.reg16 b = none →
      exec (.addxReg b) s = .next t ∧ exec (.subxReg b) s = .next t ∧ exec (.mulxReg b) s = .next t ∧
      exec (.divxReg b) s = .next t)

/-! ## MOV and MOVX -/

/-- The state after MOV of `v`: what was written, N and Z from `v`, and PC. -/
def afterMov8 (s : State) (v : Byte) (regs : Regs) (mem : Memory) (len : Addr) : State :=
  { s with
    regs := regs
    mem := mem
    flags := { s.flags with z := decide (v = 0), n := decide (128 ≤ v.toNat) }
    pc := s.pc + len }

/-- The state after MOVX of `v`. -/
def afterMov16 (s : State) (v : Word) (regs : Regs) (mem : Memory) (len : Addr) : State :=
  { s with
    regs := regs
    mem := mem
    flags := { s.flags with z := decide (v = 0), n := decide (32768 ≤ v.toNat) }
    pc := s.pc + len }

/-- MOV to memory, all eight forms: the byte at the destination (Absolute), or at the pointer the destination holds in
the state before the write (Indirect), becomes the datum; N and Z come from the datum (decisions D1, D7, D22 and D31,
entries 8, 18, 28 and 33). -/
def Obligations.MovToMemoryCompletes : Prop :=
  ∀ (s : State) (v : Byte) (d : Addr), s.AllRam →
    FromAnySource8 s v (.movImmAbs · d) (.movAbsAbs · d) (.movIndAbs · d) (.movRegAbs · d) 4 5
      (afterMov8 s v s.regs (s.mem.write d v)) ∧
    FromAnySource8 s v (.movImmInd · d) (.movAbsInd · d) (.movIndInd · d) (.movRegInd · d) 4 5
      (afterMov8 s v s.regs (s.mem.write (catBytes (s.mem.read d) (s.mem.read (d + 1))) v))

/-- MOV to a register, all four forms (decisions D1, D2 and D31, entries 7, 8 and 33). -/
def Obligations.MovToRegisterCompletes : Prop :=
  ∀ (s : State) (v b : Byte) (r : Reg8) (regs : Regs), s.cfg.reg8 b = some r →
    (∀ q, regs.get q = if q = r then v else s.regs.get q) →
    FromAnySource8 s v (.movImmReg · b) (.movAbsReg · b) (.movIndReg · b) (.movRegReg · b) 3 4
      (afterMov8 s v regs s.mem)

/-- MOVX to memory, all eight forms: the high byte of the datum as it was before the write goes to the address, the
low byte to the next, wrapping (decisions D1, D6, D7, D8, D22 and D31, entries 8, 17, 18, 19, 28 and 33). -/
def Obligations.MovxToMemoryCompletes : Prop :=
  ∀ (s : State) (v : Word) (d q : Addr), s.AllRam → catBytes (s.mem.read d) (s.mem.read (d + 1)) = q →
    FromAnySource16 s v (.movxImmAbs · d) (.movxAbsAbs · d) (.movxIndAbs · d) (.movxRegAbs · d) 4 5
      (afterMov16 s v s.regs ((s.mem.write d (hiByte v)).write (d + 1) (loByte v))) ∧
    FromAnySource16 s v (.movxImmInd · d) (.movxAbsInd · d) (.movxIndInd · d) (.movxRegInd · d) 4 5
      (afterMov16 s v s.regs ((s.mem.write q (hiByte v)).write (q + 1) (loByte v)))

/-- MOVX to a pair, all four forms: the high byte to the first-named register, the low byte to the second (decisions
D1, D2, D5 and D31, entries 7, 8, 16 and 33). -/
def Obligations.MovxToPairCompletes : Prop :=
  ∀ (s : State) (v : Word) (b : Byte) (p : Reg16) (regs : Regs), s.cfg.reg16 b = some p →
    (∀ q, regs.get q =
      if q = pairHigh p then hiByte v else if q = pairLow p then loByte v else s.regs.get q) →
    FromAnySource16 s v (.movxImmReg · b) (.movxAbsReg · b) (.movxIndReg · b) (.movxRegReg · b) 3 4
      (afterMov16 s v regs s.mem)

/-- An unmapped register byte in MOV, MOVX or SWP: `IllegalRegister` of the first bad byte in byte order, and nothing
but the run state changes. Register bytes are decoded before any memory is read, so no memory map comes into it
(decisions D3, D22 and D30, entries 13, 28, 32 and 41). -/
def Obligations.UnmappedMoveRegisterFaults : Prop :=
  ∀ (s : State) (b1 b2 : Byte) (fault : Byte → State),
    (∀ b, fault b = { s with run := .faulted (.illegalRegister b) s.pc }) →
    (s.cfg.reg8 b1 = none →
      (∀ d, exec (.movRegAbs b1 d) s = .next (fault b1) ∧ exec (.movRegInd b1 d) s = .next (fault b1)) ∧
      exec (.movRegReg b1 b2) s = .next (fault b1) ∧ exec (.swp b1 b2) s = .next (fault b1) ∧
      (∀ v, exec (.movImmReg v b1) s = .next (fault b1)) ∧
      (∀ a, exec (.movAbsReg a b1) s = .next (fault b1) ∧ exec (.movIndReg a b1) s = .next (fault b1))) ∧
    (s.cfg.reg8 b1 ≠ none → s.cfg.reg8 b2 = none →
      exec (.movRegReg b1 b2) s = .next (fault b2) ∧ exec (.swp b1 b2) s = .next (fault b2)) ∧
    (s.cfg.reg16 b1 = none →
      (∀ d, exec (.movxRegAbs b1 d) s = .next (fault b1) ∧ exec (.movxRegInd b1 d) s = .next (fault b1)) ∧
      exec (.movxRegReg b1 b2) s = .next (fault b1) ∧
      (∀ v, exec (.movxImmReg v b1) s = .next (fault b1)) ∧
      (∀ a, exec (.movxAbsReg a b1) s = .next (fault b1) ∧ exec (.movxIndReg a b1) s = .next (fault b1))) ∧
    (s.cfg.reg16 b1 ≠ none → s.cfg.reg16 b2 = none → exec (.movxRegReg b1 b2) s = .next (fault b2))

/-- MOVX from memory to memory, all four forms, copies the two bytes as they were, also where source and destination
overlap or wrap: `p` is where the source lies and `q` where the destination lies, each given or held by a pointer in the
state before the write (decisions D6, D7, D8 and D22, entries 17, 18, 19 and 28). -/
def Obligations.MovxCopiesOverlappingBytes : Prop :=
  ∀ (s t : State) (p q : Addr) (i : Instr),
    (i = .movxAbsAbs p q ∨
      (∃ a, i = .movxIndAbs a q ∧ catBytes (s.mem.read a) (s.mem.read (a + 1)) = p) ∨
      (∃ d, i = .movxAbsInd p d ∧ catBytes (s.mem.read d) (s.mem.read (d + 1)) = q) ∨
      (∃ a d, i = .movxIndInd a d ∧ catBytes (s.mem.read a) (s.mem.read (a + 1)) = p ∧
        catBytes (s.mem.read d) (s.mem.read (d + 1)) = q)) →
    exec i s = .next t →
      t.mem.read q = s.mem.read p ∧ t.mem.read (q + 1) = s.mem.read (p + 1) ∧
      ∀ x, x ≠ q → x ≠ q + 1 → t.mem.read x = s.mem.read x

/-! ## SWP, PUSH, POP -/

/-- SWP exchanges the two registers and writes N and Z: from the new first, from the new second, or with values nothing
determines, as `SWP_NZ` says; O, C, P, I, SP and memory stay (decision D16, entries 9 and 36). -/
def Obligations.SwpCompletes : Prop :=
  ∀ (s : State) (b1 b2 : Byte) (r1 r2 : Reg8), s.cfg.reg8 b1 = some r1 → s.cfg.reg8 b2 = some r2 →
    ∃ (regs : Regs) (z n : Bool) (k : Nat),
      (∀ q, regs.get q = if q = r1 then s.regs.get r2 else if q = r2 then s.regs.get r1 else s.regs.get q) ∧
      (s.cfg.swpNz = .r1 →
        z = decide (s.regs.get r2 = 0) ∧ n = decide (128 ≤ (s.regs.get r2).toNat) ∧ k = s.draws) ∧
      (s.cfg.swpNz = .r2 →
        z = decide (s.regs.get r1 = 0) ∧ n = decide (128 ≤ (s.regs.get r1).toNat) ∧ k = s.draws) ∧
      exec (.swp b1 b2) s =
        .next { s with regs := regs, flags := { s.flags with z := z, n := n }, draws := k, pc := s.pc + 3 }

/-- PUSH: SP goes up by one, wrapping, and A is stored at the new SP; N and Z come from A (decisions D8, D17 and D31,
entries 19, 26 and 33). -/
def Obligations.PushCompletes : Prop :=
  ∀ s : State, s.cfg.kindAt (s.sp + 1) = .ram →
    exec .push s = .next
      { s with
        sp := s.sp + 1
        mem := s.mem.write (s.sp + 1) s.regs.a
        flags := { s.flags with z := decide (s.regs.a = 0), n := decide (128 ≤ s.regs.a.toNat) }
        pc := s.pc + 1 }

/-- POP: A becomes the byte at SP, then SP goes down by one, wrapping; memory stays (decisions D8, D17 and D31, entries
19, 26 and 33). -/
def Obligations.PopCompletes : Prop :=
  ∀ (s : State) (v : Byte), s.cfg.kindAt s.sp = .ram → s.mem.read s.sp = v →
    exec .pop s = .next
      { s with
        regs := { s.regs with a := v }
        sp := s.sp - 1
        flags := { s.flags with z := decide (v = 0), n := decide (128 ≤ v.toNat) }
        pc := s.pc + 1 }

/-- POP undoes PUSH on A and SP, for every A and every SP, and leaves the byte pushed in memory (decision D17, entry
26). -/
def Obligations.PopUndoesPush : Prop :=
  ∀ s : State, s.AllRam → ∃ t u, exec .push s = .next t ∧ exec .pop t = .next u ∧
    u.regs = s.regs ∧ u.sp = s.sp ∧ u.mem = t.mem ∧ u.mem.read (s.sp + 1) = s.regs.a ∧
    ∀ x, x ≠ s.sp + 1 → u.mem.read x = s.mem.read x

/-- SWP twice restores every register (decision D16, entry 36). -/
def Obligations.SwpTwiceRestores : Prop :=
  ∀ (s : State) (b1 b2 : Byte), (Instr.swp b1 b2).wf s.cfg = true →
    ∃ t u, exec (.swp b1 b2) s = .next t ∧ exec (.swp b1 b2) t = .next u ∧ u.regs = s.regs ∧ u.mem = s.mem

/-! ## Arithmetic laws -/

/-- SUB of an immediate undoes ADD of the same immediate on A, and SUBX undoes ADDX on AB. -/
def Obligations.SubUndoesAdd : Prop :=
  (∀ (s : State) (d : Byte), ∃ t u, exec (.addImm d) s = .next t ∧ exec (.subImm d) t = .next u ∧
    u.regs = s.regs) ∧
  (∀ (s : State) (d : Word), ∃ t u, exec (.addxImm d) s = .next t ∧ exec (.subxImm d) t = .next u ∧
    u.regs = s.regs)

/-- The division identity: after DIV by Data = d, A * d + B is the old A and B < d, and after DIVX the same of AB and CD
(decision D14, entry 24), where the divisor is a register, the remainder's own register included. -/
def Obligations.DivisionIdentity : Prop :=
  (∀ (s t : State) (b : Byte) (r : Reg8), s.cfg.reg8 b = some r → s.regs.get r ≠ 0 →
    exec (.divReg b) s = .next t →
      t.regs.a.toNat * (s.regs.get r).toNat + t.regs.b.toNat = s.regs.a.toNat ∧
      t.regs.b.toNat < (s.regs.get r).toNat) ∧
  (∀ (s t : State) (b : Byte) (r : Reg16), s.cfg.reg16 b = some r → s.regs.getPair r ≠ 0 →
    exec (.divxReg b) s = .next t →
      (t.regs.getPair .ab).toNat * (s.regs.getPair r).toNat + (t.regs.getPair .cd).toNat =
        (s.regs.getPair .ab).toNat ∧
      (t.regs.getPair .cd).toNat < (s.regs.getPair r).toNat)

/-! ## Whole-machine rules -/

/-- Under a memory map that is all RAM and unsigned division, every instruction with every operand answers a next
state: nothing but the three faults stops an instruction, and no memory access faults (decisions D23 and D25, entries
12 and 30). -/
def Obligations.EveryInstructionAnswersNext : Prop :=
  ∀ (i : Instr) (s : State), s.AllRam → s.cfg.divSigned = false → ∃ t, exec i s = .next t

/-- A step that takes a fault changes the run state and nothing else, and records the PC it leaves in place (decision
D30, entry 13). -/
def Obligations.FaultChangesOnlyRunState : Prop :=
  ∀ (s t : State) (r : FaultReason) (p : Addr), step s = .next t → t.run = .faulted r p →
    p = s.pc ∧ t = { s with run := .faulted r p }

/-- An instruction that answers a next state either took a fault or advanced PC by exactly its length, with the run
state Halted after HCF and as before after any other (decisions D8, D18 and D27, entries 19, 27 and 43). -/
def Obligations.PcAdvancesByLength : Prop :=
  ∀ (i : Instr) (s t : State), exec i s = .next t →
    (∃ r, t = { s with run := .faulted r s.pc }) ∨
    (t.pc = s.pc + BitVec.ofNat 16 i.length ∧ t.run = if i = .hcf then .halted else s.run)

/-- HCF alone halts: a step from a running machine that ends `Halted` ran the HCF opcode (decision D18, entry 27). -/
def Obligations.OnlyHcfHalts : Prop :=
  ∀ s t : State, step s = .next t → (t.run = .halted ↔ s.mem.read s.pc = 0x01)

/-- No step changes P, I or a parameter (the flag masks, decisions D9 and D20, entries 20 and 35; the parameters are
fixed for the run, entry 6). -/
def Obligations.StepKeepsParityInterruptAndParameters : Prop :=
  ∀ s t : State, step s = .next t → t.flags.p = s.flags.p ∧ t.flags.i = s.flags.i ∧ t.cfg = s.cfg

/-- The flag masks: every instruction leaves P and I, one whose mask has no mark under O and C leaves those, and one with
none under N and Z leaves every flag (decisions D9 and D20, entries 20 and 35). -/
def Obligations.FlagMasksHold : Prop :=
  ∀ (i : Instr) (s t : State), exec i s = .next t →
    (t.flags.p = s.flags.p ∧ t.flags.i = s.flags.i) ∧
    (writesCO i.opcode = false → t.flags.c = s.flags.c ∧ t.flags.o = s.flags.o) ∧
    (writesNZ i.opcode = false → t.flags = s.flags)

/-- Only PUSH and POP move SP (decision D17, entry 26). -/
def Obligations.OnlyPushAndPopMoveSp : Prop :=
  ∀ (i : Instr) (s t : State), exec i s = .next t → i ≠ .push → i ≠ .pop → t.sp = s.sp

/-- Every register outside those the table of written registers gives the instruction keeps its value. -/
def Obligations.RegisterFrame : Prop :=
  ∀ (i : Instr) (s t : State), exec i s = .next t →
    ∀ q, q ∉ registersWritten s.cfg i → t.regs.get q = s.regs.get q

/-- Every byte of memory outside those the instruction stores to, at the address its own destination operand comes to
in the state it starts in, keeps its value; an instruction that stores nothing leaves all of memory (decisions D7, D8
and D17, entries 18, 19 and 26). -/
def Obligations.MemoryFrame : Prop :=
  ∀ (i : Instr) (s t : State), exec i s = .next t →
    ∀ x, x ∉ storedBytes s i → t.mem.read x = s.mem.read x

/-- Only SWP under `SWP_NZ` = any draws free flags; any other instruction leaves the model's own counter alone (entry
9). -/
def Obligations.OnlySwpDraws : Prop :=
  ∀ (i : Instr) (s t : State), exec i s = .next t → t.draws ≠ s.draws → i.opcode = .swp ∧ s.cfg.swpNz = .any

/-- No instruction reads a flag: from two states that differ only in the flags, an instruction goes to two states that
differ only in the flags. -/
def Obligations.NoInstructionReadsFlags : Prop :=
  ∀ (i : Instr) (s t : State) (f : Flags), exec i s = .next t →
    ∃ g : Flags, exec i { s with flags := f } = .next { t with flags := g }

/-- A byte stored by MOV, MOVX or PUSH, in any form that stores, is what the next fetch of its address reads; the bytes
stored are the instruction's own Data, at the address its destination comes to in the state it starts in (decisions D6,
D7, D17, D22 and D24, entries 17, 18, 26, 28 and 29). -/
def Obligations.StoresAreSeenByFetch : Prop :=
  ∀ (i : Instr) (s t : State) (x : Addr) (b : Byte) (k : Nat), exec i s = .next t → (x, b) ∈ storedCells s i →
    t.pc + BitVec.ofNat 16 k = x → t.fetchByte k = b

/-! ## The invariant and reset -/

/-- Every step keeps the invariant: memory in canonical form, a halted machine one past an HCF, a faulted machine at
an opcode that raises what the run state recorded. -/
def Obligations.StepKeepsCoherence : Prop :=
  ∀ s t : State, s.Coherent → step s = .next t → t.Coherent

/-- The machine right after reset meets the invariant. -/
def Obligations.ResetIsCoherent : Prop := State.reset.Coherent

/-- A machine started from any `INIT` is `Running` and holds that `INIT` in every field; at reset the model's `INIT` is
PC 0x0200, SP 0x00FF, and 0 in every register, flag and memory byte (the model's choice, entries 1 to 6). -/
def Obligations.InitIsWhatTheHostPlaced : Prop :=
  (∀ (cfg : Config) (i : Init), (State.init cfg i).run = .running ∧ (State.init cfg i).regs = i.regs ∧
    (State.init cfg i).sp = i.sp ∧ (State.init cfg i).pc = i.pc ∧ (State.init cfg i).flags = i.flags ∧
    (State.init cfg i).mem = i.mem ∧ (State.init cfg i).cfg = cfg) ∧
  State.reset.run = .running ∧ State.reset.pc = 0x0200 ∧ State.reset.sp = 0x00FF ∧
  (∀ r, State.reset.regs.get r = 0) ∧ State.reset.flags = ⟨false, false, false, false, false, false⟩ ∧
  (∀ a, State.reset.mem.read a = 0)

/-! ## Registers, the status register, memory -/

/-- The bits of the status register where `10_state.md` section 4 draws them, `xxIP OCNZ`, bit by bit, in the model's byte
view of its flags; bits 7 and 6 have no state and show the view's argument (decision D21, entry 34). -/
def Obligations.StatusRegisterLayout : Prop :=
  ∀ (f : Flags) (x : BitVec 2),
    (f.statusByte x).getLsbD 0 = f.z ∧ (f.statusByte x).getLsbD 1 = f.n ∧ (f.statusByte x).getLsbD 2 = f.c ∧
    (f.statusByte x).getLsbD 3 = f.o ∧ (f.statusByte x).getLsbD 4 = f.p ∧ (f.statusByte x).getLsbD 5 = f.i ∧
    (f.statusByte x).getLsbD 6 = x.getLsbD 0 ∧ (f.statusByte x).getLsbD 7 = x.getLsbD 1

/-- A pair is a view of its two registers: its value is theirs, the first-named the high byte (decision D5, entry 16);
a write of the pair writes both and nothing else, and a write of either half changes the pair. -/
def Obligations.PairsAreViews : Prop :=
  (∀ r : Regs, (r.getPair .ab).toNat = 256 * r.a.toNat + r.b.toNat ∧
    (r.getPair .cd).toNat = 256 * r.c.toNat + r.d.toNat ∧
    (r.getPair .ef).toNat = 256 * r.e.toNat + r.f.toNat ∧
    (r.getPair .gh).toNat = 256 * r.g.toNat + r.h.toNat) ∧
  (∀ (r : Regs) (p q : Reg16) (v : Word), (r.setPair p v).getPair q = if q = p then v else r.getPair q) ∧
  (∀ (r : Regs) (p : Reg16) (v : Byte),
    hiByte ((r.set (pairHigh p) v).getPair p) = v ∧ loByte ((r.set (pairLow p) v).getPair p) = v)

/-- Mixed-width accesses: a 16-bit write is its two bytes, high at the lower address, wrapping at 0xFFFF, and no other
byte changes; two byte writes read back as their concatenation (decisions D6 and D8, entries 17 and 19). -/
def Obligations.MixedWidthAccesses : Prop :=
  ∀ (m : Memory) (a : Addr),
    (∀ v : Word, (m.write16 a v).read a = hiByte v ∧ (m.write16 a v).read (a + 1) = loByte v ∧
      (m.write16 a v).read16 a = v ∧ ∀ x, x ≠ a → x ≠ a + 1 → (m.write16 a v).read x = m.read x) ∧
    (∀ h l : Byte, (((m.write a h).write (a + 1) l).read16 a).toNat = 256 * h.toNat + l.toNat)

/-- Two memories in canonical form that read alike at every address are equal data (the model's form, entry 5). -/
def Obligations.CanonicalMemoriesAreExtensional : Prop :=
  ∀ m k : Memory, m.wf = true → k.wf = true → (∀ a : Addr, m.read a = k.read a) → m = k

/-- A memory map that is not the default stops an access where it says no RAM answers, before anything is written (the
model's choice, entry 12): for every instruction form the first access it makes, its register operands mapped, and for
the step the fetch of the opcode. -/
def Obligations.MemMapStopsAccesses : Prop :=
  ∀ (s : State) (a : Addr) (k : MemKind) (out : Host.Outcome State Fault Refusal),
    (k = .absent ∧ out = .fault (.absentAddress a)) ∨ (k = .device ∧ out = .refused (.deviceAddress a)) →
    s.cfg.kindAt a = k →
      exec (.addAbs a) s = out ∧ exec (.addInd a) s = out ∧ exec (.addxAbs a) s = out ∧ exec (.addxInd a) s = out ∧
      exec (.subAbs a) s = out ∧ exec (.subInd a) s = out ∧ exec (.subxAbs a) s = out ∧ exec (.subxInd a) s = out ∧
      exec (.mulAbs a) s = out ∧ exec (.mulInd a) s = out ∧ exec (.mulxAbs a) s = out ∧ exec (.mulxInd a) s = out ∧
      exec (.divAbs a) s = out ∧ exec (.divInd a) s = out ∧ exec (.divxAbs a) s = out ∧ exec (.divxInd a) s = out ∧
      (∀ v, exec (.movImmAbs v a) s = out ∧ exec (.movImmInd v a) s = out) ∧
      (∀ v, exec (.movxImmAbs v a) s = out ∧ exec (.movxImmInd v a) s = out) ∧
      (∀ d, exec (.movAbsAbs a d) s = out ∧ exec (.movIndAbs a d) s = out ∧ exec (.movAbsInd a d) s = out ∧
        exec (.movIndInd a d) s = out ∧ exec (.movxAbsAbs a d) s = out ∧ exec (.movxIndAbs a d) s = out ∧
        exec (.movxAbsInd a d) s = out ∧ exec (.movxIndInd a d) s = out) ∧
      (∀ b, s.cfg.reg8 b ≠ none →
        exec (.movAbsReg a b) s = out ∧ exec (.movIndReg a b) s = out ∧
        exec (.movRegAbs b a) s = out ∧ exec (.movRegInd b a) s = out) ∧
      (∀ b, s.cfg.reg16 b ≠ none →
        exec (.movxAbsReg a b) s = out ∧ exec (.movxIndReg a b) s = out ∧
        exec (.movxRegAbs b a) s = out ∧ exec (.movxRegInd b a) s = out) ∧
      (s.sp + 1 = a → exec .push s = out) ∧ (s.sp = a → exec .pop s = out) ∧
      (s.run = .running → s.pc = a → step s = out)
end

