-- ==== Sys2Proof/Laws/PerInstr.lean ====
section
/-! SUPPORT. Statements made for every instruction, one lemma per constructor. -/

namespace Sys2Proof.Laws.EncodedLength

/-- The encoding of an instruction has the length its opcode gives it, one to five bytes (`30_encoding.md` R50, R64). -/
def Statement (i : Instr) : Prop :=
  (∀ cfg, (encode cfg i).length = i.length) ∧ 1 ≤ i.length ∧ i.length ≤ 5

theorem nop : Statement .nop :=
  ⟨fun _ => rfl, Nat.le_of_ble_eq_true rfl, Nat.le_of_ble_eq_true rfl⟩

theorem hcf : Statement .hcf :=
  ⟨fun _ => rfl, Nat.le_of_ble_eq_true rfl, Nat.le_of_ble_eq_true rfl⟩

theorem push : Statement .push :=
  ⟨fun _ => rfl, Nat.le_of_ble_eq_true rfl, Nat.le_of_ble_eq_true rfl⟩

theorem pop : Statement .pop :=
  ⟨fun _ => rfl, Nat.le_of_ble_eq_true rfl, Nat.le_of_ble_eq_true rfl⟩

theorem swp (r1 : Byte) (r2 : Byte) : Statement (.swp r1 r2) :=
  ⟨fun _ => rfl, Nat.le_of_ble_eq_true rfl, Nat.le_of_ble_eq_true rfl⟩

theorem addImm (v : Byte) : Statement (.addImm v) :=
  ⟨fun _ => rfl, Nat.le_of_ble_eq_true rfl, Nat.le_of_ble_eq_true rfl⟩

theorem addAbs (a : Addr) : Statement (.addAbs a) :=
  ⟨fun _ => rfl, Nat.le_of_ble_eq_true rfl, Nat.le_of_ble_eq_true rfl⟩

theorem addInd (a : Addr) : Statement (.addInd a) :=
  ⟨fun _ => rfl, Nat.le_of_ble_eq_true rfl, Nat.le_of_ble_eq_true rfl⟩

theorem addReg (r : Byte) : Statement (.addReg r) :=
  ⟨fun _ => rfl, Nat.le_of_ble_eq_true rfl, Nat.le_of_ble_eq_true rfl⟩

theorem addxImm (v : Word) : Statement (.addxImm v) :=
  ⟨fun _ => rfl, Nat.le_of_ble_eq_true rfl, Nat.le_of_ble_eq_true rfl⟩

theorem addxAbs (a : Addr) : Statement (.addxAbs a) :=
  ⟨fun _ => rfl, Nat.le_of_ble_eq_true rfl, Nat.le_of_ble_eq_true rfl⟩

theorem addxInd (a : Addr) : Statement (.addxInd a) :=
  ⟨fun _ => rfl, Nat.le_of_ble_eq_true rfl, Nat.le_of_ble_eq_true rfl⟩

theorem addxReg (r : Byte) : Statement (.addxReg r) :=
  ⟨fun _ => rfl, Nat.le_of_ble_eq_true rfl, Nat.le_of_ble_eq_true rfl⟩

theorem subImm (v : Byte) : Statement (.subImm v) :=
  ⟨fun _ => rfl, Nat.le_of_ble_eq_true rfl, Nat.le_of_ble_eq_true rfl⟩

theorem subAbs (a : Addr) : Statement (.subAbs a) :=
  ⟨fun _ => rfl, Nat.le_of_ble_eq_true rfl, Nat.le_of_ble_eq_true rfl⟩

theorem subInd (a : Addr) : Statement (.subInd a) :=
  ⟨fun _ => rfl, Nat.le_of_ble_eq_true rfl, Nat.le_of_ble_eq_true rfl⟩

theorem subReg (r : Byte) : Statement (.subReg r) :=
  ⟨fun _ => rfl, Nat.le_of_ble_eq_true rfl, Nat.le_of_ble_eq_true rfl⟩

theorem subxImm (v : Word) : Statement (.subxImm v) :=
  ⟨fun _ => rfl, Nat.le_of_ble_eq_true rfl, Nat.le_of_ble_eq_true rfl⟩

theorem subxAbs (a : Addr) : Statement (.subxAbs a) :=
  ⟨fun _ => rfl, Nat.le_of_ble_eq_true rfl, Nat.le_of_ble_eq_true rfl⟩

theorem subxInd (a : Addr) : Statement (.subxInd a) :=
  ⟨fun _ => rfl, Nat.le_of_ble_eq_true rfl, Nat.le_of_ble_eq_true rfl⟩

theorem subxReg (r : Byte) : Statement (.subxReg r) :=
  ⟨fun _ => rfl, Nat.le_of_ble_eq_true rfl, Nat.le_of_ble_eq_true rfl⟩

theorem mulImm (v : Byte) : Statement (.mulImm v) :=
  ⟨fun _ => rfl, Nat.le_of_ble_eq_true rfl, Nat.le_of_ble_eq_true rfl⟩

theorem mulAbs (a : Addr) : Statement (.mulAbs a) :=
  ⟨fun _ => rfl, Nat.le_of_ble_eq_true rfl, Nat.le_of_ble_eq_true rfl⟩

theorem mulInd (a : Addr) : Statement (.mulInd a) :=
  ⟨fun _ => rfl, Nat.le_of_ble_eq_true rfl, Nat.le_of_ble_eq_true rfl⟩

theorem mulReg (r : Byte) : Statement (.mulReg r) :=
  ⟨fun _ => rfl, Nat.le_of_ble_eq_true rfl, Nat.le_of_ble_eq_true rfl⟩

theorem mulxImm (v : Word) : Statement (.mulxImm v) :=
  ⟨fun _ => rfl, Nat.le_of_ble_eq_true rfl, Nat.le_of_ble_eq_true rfl⟩

theorem mulxAbs (a : Addr) : Statement (.mulxAbs a) :=
  ⟨fun _ => rfl, Nat.le_of_ble_eq_true rfl, Nat.le_of_ble_eq_true rfl⟩

theorem mulxInd (a : Addr) : Statement (.mulxInd a) :=
  ⟨fun _ => rfl, Nat.le_of_ble_eq_true rfl, Nat.le_of_ble_eq_true rfl⟩

theorem mulxReg (r : Byte) : Statement (.mulxReg r) :=
  ⟨fun _ => rfl, Nat.le_of_ble_eq_true rfl, Nat.le_of_ble_eq_true rfl⟩

theorem divImm (v : Byte) : Statement (.divImm v) :=
  ⟨fun _ => rfl, Nat.le_of_ble_eq_true rfl, Nat.le_of_ble_eq_true rfl⟩

theorem divAbs (a : Addr) : Statement (.divAbs a) :=
  ⟨fun _ => rfl, Nat.le_of_ble_eq_true rfl, Nat.le_of_ble_eq_true rfl⟩

theorem divInd (a : Addr) : Statement (.divInd a) :=
  ⟨fun _ => rfl, Nat.le_of_ble_eq_true rfl, Nat.le_of_ble_eq_true rfl⟩

theorem divReg (r : Byte) : Statement (.divReg r) :=
  ⟨fun _ => rfl, Nat.le_of_ble_eq_true rfl, Nat.le_of_ble_eq_true rfl⟩

theorem divxImm (v : Word) : Statement (.divxImm v) :=
  ⟨fun _ => rfl, Nat.le_of_ble_eq_true rfl, Nat.le_of_ble_eq_true rfl⟩

theorem divxAbs (a : Addr) : Statement (.divxAbs a) :=
  ⟨fun _ => rfl, Nat.le_of_ble_eq_true rfl, Nat.le_of_ble_eq_true rfl⟩

theorem divxInd (a : Addr) : Statement (.divxInd a) :=
  ⟨fun _ => rfl, Nat.le_of_ble_eq_true rfl, Nat.le_of_ble_eq_true rfl⟩

theorem divxReg (r : Byte) : Statement (.divxReg r) :=
  ⟨fun _ => rfl, Nat.le_of_ble_eq_true rfl, Nat.le_of_ble_eq_true rfl⟩

theorem movImmAbs (v : Byte) (dst : Addr) : Statement (.movImmAbs v dst) :=
  ⟨fun _ => rfl, Nat.le_of_ble_eq_true rfl, Nat.le_of_ble_eq_true rfl⟩

theorem movAbsAbs (src : Addr) (dst : Addr) : Statement (.movAbsAbs src dst) :=
  ⟨fun _ => rfl, Nat.le_of_ble_eq_true rfl, Nat.le_of_ble_eq_true rfl⟩

theorem movIndAbs (src : Addr) (dst : Addr) : Statement (.movIndAbs src dst) :=
  ⟨fun _ => rfl, Nat.le_of_ble_eq_true rfl, Nat.le_of_ble_eq_true rfl⟩

theorem movRegAbs (rs : Byte) (dst : Addr) : Statement (.movRegAbs rs dst) :=
  ⟨fun _ => rfl, Nat.le_of_ble_eq_true rfl, Nat.le_of_ble_eq_true rfl⟩

theorem movImmInd (v : Byte) (dst : Addr) : Statement (.movImmInd v dst) :=
  ⟨fun _ => rfl, Nat.le_of_ble_eq_true rfl, Nat.le_of_ble_eq_true rfl⟩

theorem movAbsInd (src : Addr) (dst : Addr) : Statement (.movAbsInd src dst) :=
  ⟨fun _ => rfl, Nat.le_of_ble_eq_true rfl, Nat.le_of_ble_eq_true rfl⟩

theorem movIndInd (src : Addr) (dst : Addr) : Statement (.movIndInd src dst) :=
  ⟨fun _ => rfl, Nat.le_of_ble_eq_true rfl, Nat.le_of_ble_eq_true rfl⟩

theorem movRegInd (rs : Byte) (dst : Addr) : Statement (.movRegInd rs dst) :=
  ⟨fun _ => rfl, Nat.le_of_ble_eq_true rfl, Nat.le_of_ble_eq_true rfl⟩

theorem movImmReg (v : Byte) (rd : Byte) : Statement (.movImmReg v rd) :=
  ⟨fun _ => rfl, Nat.le_of_ble_eq_true rfl, Nat.le_of_ble_eq_true rfl⟩

theorem movAbsReg (src : Addr) (rd : Byte) : Statement (.movAbsReg src rd) :=
  ⟨fun _ => rfl, Nat.le_of_ble_eq_true rfl, Nat.le_of_ble_eq_true rfl⟩

theorem movIndReg (src : Addr) (rd : Byte) : Statement (.movIndReg src rd) :=
  ⟨fun _ => rfl, Nat.le_of_ble_eq_true rfl, Nat.le_of_ble_eq_true rfl⟩

theorem movRegReg (rs : Byte) (rd : Byte) : Statement (.movRegReg rs rd) :=
  ⟨fun _ => rfl, Nat.le_of_ble_eq_true rfl, Nat.le_of_ble_eq_true rfl⟩

theorem movxImmAbs (v : Word) (dst : Addr) : Statement (.movxImmAbs v dst) :=
  ⟨fun _ => rfl, Nat.le_of_ble_eq_true rfl, Nat.le_of_ble_eq_true rfl⟩

theorem movxAbsAbs (src : Addr) (dst : Addr) : Statement (.movxAbsAbs src dst) :=
  ⟨fun _ => rfl, Nat.le_of_ble_eq_true rfl, Nat.le_of_ble_eq_true rfl⟩

theorem movxIndAbs (src : Addr) (dst : Addr) : Statement (.movxIndAbs src dst) :=
  ⟨fun _ => rfl, Nat.le_of_ble_eq_true rfl, Nat.le_of_ble_eq_true rfl⟩

theorem movxRegAbs (rs : Byte) (dst : Addr) : Statement (.movxRegAbs rs dst) :=
  ⟨fun _ => rfl, Nat.le_of_ble_eq_true rfl, Nat.le_of_ble_eq_true rfl⟩

theorem movxImmInd (v : Word) (dst : Addr) : Statement (.movxImmInd v dst) :=
  ⟨fun _ => rfl, Nat.le_of_ble_eq_true rfl, Nat.le_of_ble_eq_true rfl⟩

theorem movxAbsInd (src : Addr) (dst : Addr) : Statement (.movxAbsInd src dst) :=
  ⟨fun _ => rfl, Nat.le_of_ble_eq_true rfl, Nat.le_of_ble_eq_true rfl⟩

theorem movxIndInd (src : Addr) (dst : Addr) : Statement (.movxIndInd src dst) :=
  ⟨fun _ => rfl, Nat.le_of_ble_eq_true rfl, Nat.le_of_ble_eq_true rfl⟩

theorem movxRegInd (rs : Byte) (dst : Addr) : Statement (.movxRegInd rs dst) :=
  ⟨fun _ => rfl, Nat.le_of_ble_eq_true rfl, Nat.le_of_ble_eq_true rfl⟩

theorem movxImmReg (v : Word) (rd : Byte) : Statement (.movxImmReg v rd) :=
  ⟨fun _ => rfl, Nat.le_of_ble_eq_true rfl, Nat.le_of_ble_eq_true rfl⟩

theorem movxAbsReg (src : Addr) (rd : Byte) : Statement (.movxAbsReg src rd) :=
  ⟨fun _ => rfl, Nat.le_of_ble_eq_true rfl, Nat.le_of_ble_eq_true rfl⟩

theorem movxIndReg (src : Addr) (rd : Byte) : Statement (.movxIndReg src rd) :=
  ⟨fun _ => rfl, Nat.le_of_ble_eq_true rfl, Nat.le_of_ble_eq_true rfl⟩

theorem movxRegReg (rs : Byte) (rd : Byte) : Statement (.movxRegReg rs rd) :=
  ⟨fun _ => rfl, Nat.le_of_ble_eq_true rfl, Nat.le_of_ble_eq_true rfl⟩

end Sys2Proof.Laws.EncodedLength
end

