-- ==== Sys2Proof/Laws/Registers.lean ====
section
/-! SUPPORT. Registers and pairs: a read after a write. -/

namespace Sys2Proof.Machine

/-- Bit k of a concatenation: below 8 it is the low byte's, from 8 on the high byte's. -/
theorem getLsbD_catBytes (h l : Byte) (k : Nat) :
    (catBytes h l).getLsbD k = if k < 8 then l.getLsbD k else h.getLsbD (k - 8) :=
  BitVec.getLsbD_append

/-- The value of two bytes, the first the high one. -/
theorem catBytes_toNat (h l : Byte) : (catBytes h l).toNat = 256 * h.toNat + l.toNat := by
  have e : (catBytes h l).toNat = h.toNat <<< 8 ||| l.toNat := BitVec.toNat_append h l
  rw [e, ← Nat.shiftLeft_add_eq_or_of_lt l.isLt, Nat.shiftLeft_eq]
  omega

@[simp] theorem hiByte_catBytes (h l : Byte) : hiByte (catBytes h l) = h := by
  unfold hiByte
  ext i hi
  simp only [BitVec.getElem_extractLsb', getLsbD_catBytes]
  simp [BitVec.getLsbD_eq_getElem hi]

@[simp] theorem loByte_catBytes (h l : Byte) : loByte (catBytes h l) = l := by
  unfold loByte
  ext i hi
  simp [getLsbD_catBytes, hi]

@[simp] theorem catBytes_hi_lo (w : Word) : catBytes (hiByte w) (loByte w) = w := by
  unfold catBytes hiByte loByte
  ext i hi
  simp only [BitVec.getElem_append, BitVec.getElem_extractLsb']
  split
  · simp [BitVec.getLsbD_eq_getElem, hi]
  · next h =>
    have : 8 + (i - 8) = i := by omega
    rw [this, BitVec.getLsbD_eq_getElem hi]

/-- A register holds the last value written to it, and a write changes no other register (`10_state.md` R10). -/
theorem get_set (r : Regs) (i j : Reg8) (v : Byte) : (r.set i v).get j = if j = i then v else r.get j := by
  cases i <;> cases j <;> rfl

@[simp] theorem get_set_same (r : Regs) (i : Reg8) (v : Byte) : (r.set i v).get i = v := by
  cases i <;> rfl

theorem get_set_ne (r : Regs) {i j : Reg8} (v : Byte) (h : j ≠ i) : (r.set i v).get j = r.get j := by
  simp [get_set, h]

/-- A pair write writes its two halves and no other register (R11, R12). -/
theorem get_setPair (r : Regs) (p : Reg16) (j : Reg8) (v : Word) :
    (r.setPair p v).get j =
      if j = pairLow p then loByte v else if j = pairHigh p then hiByte v else r.get j := by
  simp [Regs.setPair, get_set]

@[simp] theorem getPair_setPair_same (r : Regs) (p : Reg16) (v : Word) : (r.setPair p v).getPair p = v := by
  cases p <;> exact catBytes_hi_lo v

theorem getPair_setPair_ne (r : Regs) {p q : Reg16} (v : Word) (h : q ≠ p) :
    (r.setPair p v).getPair q = r.getPair q := by
  cases p <;> cases q <;> first | rfl | exact absurd rfl h

/-- Two register files that agree register by register are the same. -/
theorem Regs.ext_get {r t : Regs} (h : ∀ i, r.get i = t.get i) : r = t := by
  have := And.intro (h .a) (And.intro (h .b) (And.intro (h .c) (And.intro (h .d) (And.intro (h .e)
    (And.intro (h .f) (And.intro (h .g) (h .h)))))))
  cases r
  cases t
  simpa [Regs.get] using this

end Sys2Proof.Machine
end

