-- ==== Sys2Proof/Laws/Decode.lean ====
section
/-! SUPPORT. The opcode map, lengths and operand bytes: what the decoder and the encoder do, said once. -/

namespace Sys2Proof

/-- The cell of a byte outside the MOV and MOVX ranges does not depend on the parameters. -/
theorem ofByte_fixed {cfg : Config} {b : Byte} (h : b.toNat < 0x30 ∨ (0x3C ≤ b.toNat ∧ b.toNat < 0x40) ∨ 0x4C ≤ b.toNat) :
    Opcode.ofByte cfg b = fixedCell b.toNat := by
  unfold Opcode.ofByte
  rw [if_neg (by omega), if_neg (by omega)]

theorem ofByte_mov {cfg : Config} {b : Byte} (h : 0x30 ≤ b.toNat ∧ b.toNat < 0x3C) :
    Opcode.ofByte cfg b = (cfg.movForms[b.toNat - 0x30]?).map (.mov .w8) := by
  unfold Opcode.ofByte
  rw [if_pos h]

theorem ofByte_movx {cfg : Config} {b : Byte} (h : 0x40 ≤ b.toNat ∧ b.toNat < 0x4C) :
    Opcode.ofByte cfg b = (cfg.movxForms[b.toNat - 0x40]?).map (.mov .w16) := by
  unfold Opcode.ofByte
  rw [if_neg (by omega), if_pos h]

/-- The blank cells of the map (`30_encoding.md` R51, R61). -/
theorem fixedCell_none (n : Nat) (hn : n < 256) (h : (5 ≤ n ∧ n ≤ 15) ∨ 0x30 ≤ n) : fixedCell n = none := by
  have key : ∀ k : Fin 256, (5 ≤ k.val ∧ k.val ≤ 15) ∨ 0x30 ≤ k.val → fixedCell k.val = none := by decide +kernel
  exact key ⟨n, hn⟩ h

/-- Decoding answers an instruction of the opcode its first byte selects. -/
theorem decode_eq_ok {cfg : Config} {f : Nat → Byte} {i : Instr} :
    decode cfg f = .ok i ↔ ∃ o, Opcode.ofByte cfg (f 0) = some o ∧ i = o.instr f := by
  unfold decode
  cases Opcode.ofByte cfg (f 0) <;> simp [eq_comm]

/-- Reading the operands of an opcode gives an instruction of that opcode. -/
@[simp] theorem opcode_instr (f : Nat → Byte) (o : Opcode) : (o.instr f).opcode = o := by
  rcases o with _ | _ | _ | _ | _ | ⟨op, w, m⟩ | ⟨w, sm, dm⟩ <;> try rfl
  · cases op <;> cases w <;> cases m <;> rfl
  · cases w <;> cases sm <;> cases dm <;> rfl

/-- Every instruction is one to five bytes long (R50). -/
theorem length_bounds (i : Instr) : 1 ≤ i.length ∧ i.length ≤ 5 := by
  cases i <;> exact ⟨Nat.le_of_ble_eq_true rfl, Nat.le_of_ble_eq_true rfl⟩

end Sys2Proof
end

