-- ==== Sys2Proof/Laws/Exec.lean ====
section
/-! SUPPORT. What each arm of `exec` is: the one shared operation it is, with its operand forms and its length. A proof
about `exec` rewrites with these and then cites the operation's lemma in `Laws/Ops.lean`. -/

namespace Sys2Proof.Machine

theorem exec_nop (s : State) : exec .nop s = execNop s := rfl

theorem exec_hcf (s : State) : exec .hcf s = execHcf s := rfl

theorem exec_push (s : State) : exec .push s = execPush s := rfl

theorem exec_pop (s : State) : exec .pop s = execPop s := rfl

theorem exec_swp (r1 r2 : Byte) (s : State) : exec (.swp r1 r2) s = execSwp r1 r2 s := rfl

theorem exec_addImm (v : Byte) (s : State) : exec (.addImm v) s = arith8 .add (.imm v) 2 s := rfl

theorem exec_addAbs (a : Addr) (s : State) : exec (.addAbs a) s = arith8 .add (.abs a) 3 s := rfl

theorem exec_addInd (a : Addr) (s : State) : exec (.addInd a) s = arith8 .add (.ind a) 3 s := rfl

theorem exec_addReg (r : Byte) (s : State) : exec (.addReg r) s = arith8 .add (.reg r) 2 s := rfl

theorem exec_addxImm (v : Word) (s : State) : exec (.addxImm v) s = arith16 .add (.imm v) 3 s := rfl

theorem exec_addxAbs (a : Addr) (s : State) : exec (.addxAbs a) s = arith16 .add (.abs a) 3 s := rfl

theorem exec_addxInd (a : Addr) (s : State) : exec (.addxInd a) s = arith16 .add (.ind a) 3 s := rfl

theorem exec_addxReg (r : Byte) (s : State) : exec (.addxReg r) s = arith16 .add (.reg r) 2 s := rfl

theorem exec_subImm (v : Byte) (s : State) : exec (.subImm v) s = arith8 .sub (.imm v) 2 s := rfl

theorem exec_subAbs (a : Addr) (s : State) : exec (.subAbs a) s = arith8 .sub (.abs a) 3 s := rfl

theorem exec_subInd (a : Addr) (s : State) : exec (.subInd a) s = arith8 .sub (.ind a) 3 s := rfl

theorem exec_subReg (r : Byte) (s : State) : exec (.subReg r) s = arith8 .sub (.reg r) 2 s := rfl

theorem exec_subxImm (v : Word) (s : State) : exec (.subxImm v) s = arith16 .sub (.imm v) 3 s := rfl

theorem exec_subxAbs (a : Addr) (s : State) : exec (.subxAbs a) s = arith16 .sub (.abs a) 3 s := rfl

theorem exec_subxInd (a : Addr) (s : State) : exec (.subxInd a) s = arith16 .sub (.ind a) 3 s := rfl

theorem exec_subxReg (r : Byte) (s : State) : exec (.subxReg r) s = arith16 .sub (.reg r) 2 s := rfl

theorem exec_mulImm (v : Byte) (s : State) : exec (.mulImm v) s = arith8 .mul (.imm v) 2 s := rfl

theorem exec_mulAbs (a : Addr) (s : State) : exec (.mulAbs a) s = arith8 .mul (.abs a) 3 s := rfl

theorem exec_mulInd (a : Addr) (s : State) : exec (.mulInd a) s = arith8 .mul (.ind a) 3 s := rfl

theorem exec_mulReg (r : Byte) (s : State) : exec (.mulReg r) s = arith8 .mul (.reg r) 2 s := rfl

theorem exec_mulxImm (v : Word) (s : State) : exec (.mulxImm v) s = arith16 .mul (.imm v) 3 s := rfl

theorem exec_mulxAbs (a : Addr) (s : State) : exec (.mulxAbs a) s = arith16 .mul (.abs a) 3 s := rfl

theorem exec_mulxInd (a : Addr) (s : State) : exec (.mulxInd a) s = arith16 .mul (.ind a) 3 s := rfl

theorem exec_mulxReg (r : Byte) (s : State) : exec (.mulxReg r) s = arith16 .mul (.reg r) 2 s := rfl

theorem exec_divImm (v : Byte) (s : State) : exec (.divImm v) s = div8 (.imm v) 2 s := rfl

theorem exec_divAbs (a : Addr) (s : State) : exec (.divAbs a) s = div8 (.abs a) 3 s := rfl

theorem exec_divInd (a : Addr) (s : State) : exec (.divInd a) s = div8 (.ind a) 3 s := rfl

theorem exec_divReg (r : Byte) (s : State) : exec (.divReg r) s = div8 (.reg r) 2 s := rfl

theorem exec_divxImm (v : Word) (s : State) : exec (.divxImm v) s = div16 (.imm v) 3 s := rfl

theorem exec_divxAbs (a : Addr) (s : State) : exec (.divxAbs a) s = div16 (.abs a) 3 s := rfl

theorem exec_divxInd (a : Addr) (s : State) : exec (.divxInd a) s = div16 (.ind a) 3 s := rfl

theorem exec_divxReg (r : Byte) (s : State) : exec (.divxReg r) s = div16 (.reg r) 2 s := rfl

theorem exec_movImmAbs (v : Byte) (dst : Addr) (s : State) : exec (.movImmAbs v dst) s =
    mov8 (.imm v) (.abs dst) 4 s := rfl

theorem exec_movAbsAbs (src : Addr) (dst : Addr) (s : State) : exec (.movAbsAbs src dst) s =
    mov8 (.abs src) (.abs dst) 5 s := rfl

theorem exec_movIndAbs (src : Addr) (dst : Addr) (s : State) : exec (.movIndAbs src dst) s =
    mov8 (.ind src) (.abs dst) 5 s := rfl

theorem exec_movRegAbs (rs : Byte) (dst : Addr) (s : State) : exec (.movRegAbs rs dst) s =
    mov8 (.reg rs) (.abs dst) 4 s := rfl

theorem exec_movImmInd (v : Byte) (dst : Addr) (s : State) : exec (.movImmInd v dst) s =
    mov8 (.imm v) (.ind dst) 4 s := rfl

theorem exec_movAbsInd (src : Addr) (dst : Addr) (s : State) : exec (.movAbsInd src dst) s =
    mov8 (.abs src) (.ind dst) 5 s := rfl

theorem exec_movIndInd (src : Addr) (dst : Addr) (s : State) : exec (.movIndInd src dst) s =
    mov8 (.ind src) (.ind dst) 5 s := rfl

theorem exec_movRegInd (rs : Byte) (dst : Addr) (s : State) : exec (.movRegInd rs dst) s =
    mov8 (.reg rs) (.ind dst) 4 s := rfl

theorem exec_movImmReg (v : Byte) (rd : Byte) (s : State) : exec (.movImmReg v rd) s =
    mov8 (.imm v) (.reg rd) 3 s := rfl

theorem exec_movAbsReg (src : Addr) (rd : Byte) (s : State) : exec (.movAbsReg src rd) s =
    mov8 (.abs src) (.reg rd) 4 s := rfl

theorem exec_movIndReg (src : Addr) (rd : Byte) (s : State) : exec (.movIndReg src rd) s =
    mov8 (.ind src) (.reg rd) 4 s := rfl

theorem exec_movRegReg (rs : Byte) (rd : Byte) (s : State) : exec (.movRegReg rs rd) s =
    mov8 (.reg rs) (.reg rd) 3 s := rfl

theorem exec_movxImmAbs (v : Word) (dst : Addr) (s : State) : exec (.movxImmAbs v dst) s =
    mov16 (.imm v) (.abs dst) 5 s := rfl

theorem exec_movxAbsAbs (src : Addr) (dst : Addr) (s : State) : exec (.movxAbsAbs src dst) s =
    mov16 (.abs src) (.abs dst) 5 s := rfl

theorem exec_movxIndAbs (src : Addr) (dst : Addr) (s : State) : exec (.movxIndAbs src dst) s =
    mov16 (.ind src) (.abs dst) 5 s := rfl

theorem exec_movxRegAbs (rs : Byte) (dst : Addr) (s : State) : exec (.movxRegAbs rs dst) s =
    mov16 (.reg rs) (.abs dst) 4 s := rfl

theorem exec_movxImmInd (v : Word) (dst : Addr) (s : State) : exec (.movxImmInd v dst) s =
    mov16 (.imm v) (.ind dst) 5 s := rfl

theorem exec_movxAbsInd (src : Addr) (dst : Addr) (s : State) : exec (.movxAbsInd src dst) s =
    mov16 (.abs src) (.ind dst) 5 s := rfl

theorem exec_movxIndInd (src : Addr) (dst : Addr) (s : State) : exec (.movxIndInd src dst) s =
    mov16 (.ind src) (.ind dst) 5 s := rfl

theorem exec_movxRegInd (rs : Byte) (dst : Addr) (s : State) : exec (.movxRegInd rs dst) s =
    mov16 (.reg rs) (.ind dst) 4 s := rfl

theorem exec_movxImmReg (v : Word) (rd : Byte) (s : State) : exec (.movxImmReg v rd) s =
    mov16 (.imm v) (.reg rd) 4 s := rfl

theorem exec_movxAbsReg (src : Addr) (rd : Byte) (s : State) : exec (.movxAbsReg src rd) s =
    mov16 (.abs src) (.reg rd) 4 s := rfl

theorem exec_movxIndReg (src : Addr) (rd : Byte) (s : State) : exec (.movxIndReg src rd) s =
    mov16 (.ind src) (.reg rd) 4 s := rfl

theorem exec_movxRegReg (rs : Byte) (rd : Byte) (s : State) : exec (.movxRegReg rs rd) s =
    mov16 (.reg rs) (.reg rd) 3 s := rfl

end Sys2Proof.Machine
end

