-- ==== Sys2Proof/Laws/Memory.lean ====
section
/-! SUPPORT. Memory: a read after a write, and the canonical form. -/

namespace Sys2Proof.Machine

theorem readAt_nil (a : Nat) : Memory.readAt [] a = unlistedByte := rfl

theorem readAt_cons (k : Nat) (v : Byte) (m : Memory) (a : Nat) :
    Memory.readAt ((k, v) :: m) a = if k = a then v else Memory.readAt m a := rfl

theorem readAt_erase_same (m : Memory) (a : Nat) : (m.erase a).readAt a = unlistedByte := by
  induction m with
  | nil => rfl
  | cons c m ih =>
    obtain ⟨k, v⟩ := c
    unfold Memory.erase at ih ⊢
    by_cases h : k = a
    · simpa [h] using ih
    · simp [h, readAt_cons, ih]

theorem readAt_erase_ne (m : Memory) {a b : Nat} (h : b ≠ a) : (m.erase a).readAt b = m.readAt b := by
  induction m with
  | nil => rfl
  | cons c m ih =>
    obtain ⟨k, v⟩ := c
    unfold Memory.erase at ih ⊢
    by_cases hk : k = a
    · have : ¬ a = b := fun e => h e.symm
      simp [hk, readAt_cons, ih, this]
    · simp [hk, readAt_cons, ih]

theorem readAt_insert_ne (m : Memory) {a b : Nat} (v : Byte) (h : b ≠ a) :
    (m.insert a v).readAt b = m.readAt b := by
  have hab : ¬ a = b := fun e => h e.symm
  induction m with
  | nil => simp [Memory.insert, readAt_cons, hab]
  | cons c m ih =>
    obtain ⟨k, w⟩ := c
    unfold Memory.insert
    split
    · simp [readAt_cons, hab]
    · simp [readAt_cons, ih]

/-- An address no cell of the list has. -/
theorem erase_no_key (m : Memory) (a : Nat) : ∀ c ∈ m.erase a, c.1 ≠ a := by
  intro c hc
  simpa using (List.mem_filter.mp hc).2

theorem readAt_insert_same (m : Memory) (a : Nat) (v : Byte) (h : ∀ c ∈ m, c.1 ≠ a) :
    (m.insert a v).readAt a = v := by
  induction m with
  | nil => simp [Memory.insert, readAt_cons]
  | cons c m ih =>
    obtain ⟨k, w⟩ := c
    have hk : k ≠ a := h (k, w) (by simp)
    unfold Memory.insert
    split
    · simp [readAt_cons]
    · simp [readAt_cons, hk, ih (fun c hc => h c (by simp [hc]))]

/-- A read of the byte just written gives the value written (`20_memory.md` R30). -/
@[simp] theorem read_write_same (m : Memory) (a : Addr) (v : Byte) : (m.write a v).read a = v := by
  unfold Memory.write Memory.read
  split
  · next h => rw [readAt_erase_same, h]
  · exact readAt_insert_same _ _ _ (erase_no_key m a.toNat)

/-- A write changes no other byte (R30). -/
theorem read_write_ne (m : Memory) {a b : Addr} (v : Byte) (h : b ≠ a) : (m.write a v).read b = m.read b := by
  have hn : b.toNat ≠ a.toNat := fun e => h (BitVec.eq_of_toNat_eq e)
  unfold Memory.write Memory.read
  split
  · exact readAt_erase_ne m hn
  · rw [readAt_insert_ne _ v hn, readAt_erase_ne m hn]

theorem read_write (m : Memory) (a b : Addr) (v : Byte) :
    (m.write a v).read b = if b = a then v else m.read b := by
  by_cases h : b = a
  · simp [h]
  · simp [h, read_write_ne m v h]

/-- An address is not the next one, also at the wrap (`20_memory.md` R46). -/
theorem addr_ne_succ (a : Addr) : a ≠ a + 1#16 := by bv_omega

@[simp] theorem read_write_succ (m : Memory) (a : Addr) (v : Byte) : (m.write (a + 1#16) v).read a = m.read a :=
  read_write_ne m v (addr_ne_succ a)

/-- A 16-bit read after a 16-bit write of the same address gives the value written (R33, R34). -/
@[simp] theorem read16_write16_same (m : Memory) (a : Addr) (v : Word) : (m.write16 a v).read16 a = v := by
  simp [Memory.read16, Memory.write16]

/-- A 16-bit write changes no byte but its two (R34). -/
theorem read_write16_ne (m : Memory) {a b : Addr} (v : Word) (h : b ≠ a) (h1 : b ≠ a + 1) :
    (m.write16 a v).read b = m.read b := by
  unfold Memory.write16
  rw [read_write_ne _ _ h1, read_write_ne _ _ h]

theorem wf_iff (m : Memory) :
    m.wf = true ↔ m.Pairwise (fun x y => x.1 < y.1) ∧ ∀ c ∈ m, c.1 < 65536 ∧ c.2 ≠ unlistedByte := by
  unfold Memory.wf
  simp

theorem erase_wf (m : Memory) (a : Nat) (h : m.wf = true) : (m.erase a).wf = true := by
  rw [wf_iff] at h ⊢
  exact ⟨h.1.filter _, fun c hc => h.2 c (List.mem_filter.mp hc).1⟩

theorem mem_insert {m : Memory} {a : Nat} {v : Byte} {c : Host.Cell} (h : c ∈ m.insert a v) : c = (a, v) ∨ c ∈ m := by
  induction m with
  | nil => simpa [Memory.insert] using h
  | cons d m ih =>
    obtain ⟨k, w⟩ := d
    unfold Memory.insert at h
    split at h
    · simpa using h
    · rcases List.mem_cons.mp h with h | h
      · simp [h]
      · rcases ih h with h | h <;> simp [h]

theorem insert_wf (m : Memory) (a : Nat) (v : Byte) (h : m.wf = true) (hk : ∀ c ∈ m, c.1 ≠ a) (ha : a < 65536)
    (hv : v ≠ unlistedByte) : (m.insert a v).wf = true := by
  rw [wf_iff] at h ⊢
  refine ⟨?_, fun c hc => ?_⟩
  · obtain ⟨h, -⟩ := h
    induction m with
    | nil => simp [Memory.insert]
    | cons d m ih =>
      obtain ⟨k, w⟩ := d
      have hd := List.pairwise_cons.mp h
      unfold Memory.insert
      split
      · next hlt =>
        refine List.pairwise_cons.mpr ⟨fun c hc => ?_, h⟩
        rcases List.mem_cons.mp hc with hc | hc
        · simpa [hc] using hlt
        · have := hd.1 c hc
          simp at this ⊢
          omega
      · next hge =>
        have hne : k ≠ a := hk (k, w) (by simp)
        refine List.pairwise_cons.mpr ⟨fun c hc => ?_, ih (fun c hc => hk c (by simp [hc])) hd.2⟩
        rcases mem_insert hc with hc | hc
        · simp [hc]
          omega
        · exact hd.1 c hc
  · rcases mem_insert hc with hc | hc
    · simp [hc, ha, hv]
    · exact h.2 c hc

/-- A write of one byte keeps the canonical form. -/
theorem write_wf (m : Memory) (a : Addr) (v : Byte) (h : m.wf = true) : (m.write a v).wf = true := by
  unfold Memory.write
  split
  · exact erase_wf m _ h
  · next hv => exact insert_wf _ _ _ (erase_wf m _ h) (erase_no_key m _) a.isLt hv

/-- A write of two bytes keeps the canonical form. -/
theorem write16_wf (m : Memory) (a : Addr) (v : Word) (h : m.wf = true) : (m.write16 a v).wf = true :=
  write_wf _ _ _ (write_wf _ _ _ h)

/-- Placing bytes for the next fetch keeps the canonical form. -/
theorem writeBytes_wf (m : Memory) (a : Addr) (bs : List Byte) (h : m.wf = true) : (m.writeBytes a bs).wf = true := by
  induction bs generalizing m a with
  | nil => exact h
  | cons b bs ih => exact ih _ _ (write_wf m a b h)

/-- Memory after reset has the canonical form. -/
theorem reset_mem_wf : State.reset.mem.wf = true := rfl

end Sys2Proof.Machine
end

