-- ==== Sys2Proof/Laws/State.lean ====
section
/-! SUPPORT. What each field of the state is after each update: one lemma per field per update. -/

namespace Sys2Proof.Machine

/-! ### `State.advance` -/

@[simp] theorem State.advance_regs (s : State) (n : Addr) : (s.advance n).regs = s.regs := rfl
@[simp] theorem State.advance_sp (s : State) (n : Addr) : (s.advance n).sp = s.sp := rfl
@[simp] theorem State.advance_pc (s : State) (n : Addr) : (s.advance n).pc = s.pc + n := rfl
@[simp] theorem State.advance_flags (s : State) (n : Addr) : (s.advance n).flags = s.flags := rfl
@[simp] theorem State.advance_mem (s : State) (n : Addr) : (s.advance n).mem = s.mem := rfl
@[simp] theorem State.advance_run (s : State) (n : Addr) : (s.advance n).run = s.run := rfl
@[simp] theorem State.advance_draws (s : State) (n : Addr) : (s.advance n).draws = s.draws := rfl
@[simp] theorem State.advance_cfg (s : State) (n : Addr) : (s.advance n).cfg = s.cfg := rfl

/-! ### `State.setReg8` -/

@[simp] theorem State.setReg8_regs (s : State) (r : Reg8) (v : Byte) : (s.setReg8 r v).regs = s.regs.set r v := rfl
@[simp] theorem State.setReg8_sp (s : State) (r : Reg8) (v : Byte) : (s.setReg8 r v).sp = s.sp := rfl
@[simp] theorem State.setReg8_pc (s : State) (r : Reg8) (v : Byte) : (s.setReg8 r v).pc = s.pc := rfl
@[simp] theorem State.setReg8_flags (s : State) (r : Reg8) (v : Byte) : (s.setReg8 r v).flags = s.flags := rfl
@[simp] theorem State.setReg8_mem (s : State) (r : Reg8) (v : Byte) : (s.setReg8 r v).mem = s.mem := rfl
@[simp] theorem State.setReg8_run (s : State) (r : Reg8) (v : Byte) : (s.setReg8 r v).run = s.run := rfl
@[simp] theorem State.setReg8_draws (s : State) (r : Reg8) (v : Byte) : (s.setReg8 r v).draws = s.draws := rfl
@[simp] theorem State.setReg8_cfg (s : State) (r : Reg8) (v : Byte) : (s.setReg8 r v).cfg = s.cfg := rfl

/-! ### `State.setReg16` -/

@[simp] theorem State.setReg16_regs (s : State) (r : Reg16) (v : Word) : (s.setReg16 r v).regs = s.regs.setPair r v := rfl
@[simp] theorem State.setReg16_sp (s : State) (r : Reg16) (v : Word) : (s.setReg16 r v).sp = s.sp := rfl
@[simp] theorem State.setReg16_pc (s : State) (r : Reg16) (v : Word) : (s.setReg16 r v).pc = s.pc := rfl
@[simp] theorem State.setReg16_flags (s : State) (r : Reg16) (v : Word) : (s.setReg16 r v).flags = s.flags := rfl
@[simp] theorem State.setReg16_mem (s : State) (r : Reg16) (v : Word) : (s.setReg16 r v).mem = s.mem := rfl
@[simp] theorem State.setReg16_run (s : State) (r : Reg16) (v : Word) : (s.setReg16 r v).run = s.run := rfl
@[simp] theorem State.setReg16_draws (s : State) (r : Reg16) (v : Word) : (s.setReg16 r v).draws = s.draws := rfl
@[simp] theorem State.setReg16_cfg (s : State) (r : Reg16) (v : Word) : (s.setReg16 r v).cfg = s.cfg := rfl

/-! ### `State.setSp` -/

@[simp] theorem State.setSp_regs (s : State) (a : Addr) : (s.setSp a).regs = s.regs := rfl
@[simp] theorem State.setSp_sp (s : State) (a : Addr) : (s.setSp a).sp = a := rfl
@[simp] theorem State.setSp_pc (s : State) (a : Addr) : (s.setSp a).pc = s.pc := rfl
@[simp] theorem State.setSp_flags (s : State) (a : Addr) : (s.setSp a).flags = s.flags := rfl
@[simp] theorem State.setSp_mem (s : State) (a : Addr) : (s.setSp a).mem = s.mem := rfl
@[simp] theorem State.setSp_run (s : State) (a : Addr) : (s.setSp a).run = s.run := rfl
@[simp] theorem State.setSp_draws (s : State) (a : Addr) : (s.setSp a).draws = s.draws := rfl
@[simp] theorem State.setSp_cfg (s : State) (a : Addr) : (s.setSp a).cfg = s.cfg := rfl

/-! ### `State.setFlags` -/

@[simp] theorem State.setFlags_regs (s : State) (f : Flags) : (s.setFlags f).regs = s.regs := rfl
@[simp] theorem State.setFlags_sp (s : State) (f : Flags) : (s.setFlags f).sp = s.sp := rfl
@[simp] theorem State.setFlags_pc (s : State) (f : Flags) : (s.setFlags f).pc = s.pc := rfl
@[simp] theorem State.setFlags_flags (s : State) (f : Flags) : (s.setFlags f).flags = f := rfl
@[simp] theorem State.setFlags_mem (s : State) (f : Flags) : (s.setFlags f).mem = s.mem := rfl
@[simp] theorem State.setFlags_run (s : State) (f : Flags) : (s.setFlags f).run = s.run := rfl
@[simp] theorem State.setFlags_draws (s : State) (f : Flags) : (s.setFlags f).draws = s.draws := rfl
@[simp] theorem State.setFlags_cfg (s : State) (f : Flags) : (s.setFlags f).cfg = s.cfg := rfl

/-! ### `State.setMem` -/

@[simp] theorem State.setMem_regs (s : State) (m : Memory) : (s.setMem m).regs = s.regs := rfl
@[simp] theorem State.setMem_sp (s : State) (m : Memory) : (s.setMem m).sp = s.sp := rfl
@[simp] theorem State.setMem_pc (s : State) (m : Memory) : (s.setMem m).pc = s.pc := rfl
@[simp] theorem State.setMem_flags (s : State) (m : Memory) : (s.setMem m).flags = s.flags := rfl
@[simp] theorem State.setMem_mem (s : State) (m : Memory) : (s.setMem m).mem = m := rfl
@[simp] theorem State.setMem_run (s : State) (m : Memory) : (s.setMem m).run = s.run := rfl
@[simp] theorem State.setMem_draws (s : State) (m : Memory) : (s.setMem m).draws = s.draws := rfl
@[simp] theorem State.setMem_cfg (s : State) (m : Memory) : (s.setMem m).cfg = s.cfg := rfl

/-! ### `State.addDraws` -/

@[simp] theorem State.addDraws_regs (s : State) (n : Nat) : (s.addDraws n).regs = s.regs := rfl
@[simp] theorem State.addDraws_sp (s : State) (n : Nat) : (s.addDraws n).sp = s.sp := rfl
@[simp] theorem State.addDraws_pc (s : State) (n : Nat) : (s.addDraws n).pc = s.pc := rfl
@[simp] theorem State.addDraws_flags (s : State) (n : Nat) : (s.addDraws n).flags = s.flags := rfl
@[simp] theorem State.addDraws_mem (s : State) (n : Nat) : (s.addDraws n).mem = s.mem := rfl
@[simp] theorem State.addDraws_run (s : State) (n : Nat) : (s.addDraws n).run = s.run := rfl
@[simp] theorem State.addDraws_draws (s : State) (n : Nat) : (s.addDraws n).draws = s.draws + n := rfl
@[simp] theorem State.addDraws_cfg (s : State) (n : Nat) : (s.addDraws n).cfg = s.cfg := rfl

/-! ### `State.halt` -/

@[simp] theorem State.halt_regs (s : State) : (s.halt).regs = s.regs := rfl
@[simp] theorem State.halt_sp (s : State) : (s.halt).sp = s.sp := rfl
@[simp] theorem State.halt_pc (s : State) : (s.halt).pc = s.pc := rfl
@[simp] theorem State.halt_flags (s : State) : (s.halt).flags = s.flags := rfl
@[simp] theorem State.halt_mem (s : State) : (s.halt).mem = s.mem := rfl
@[simp] theorem State.halt_run (s : State) : (s.halt).run = .halted := rfl
@[simp] theorem State.halt_draws (s : State) : (s.halt).draws = s.draws := rfl
@[simp] theorem State.halt_cfg (s : State) : (s.halt).cfg = s.cfg := rfl

/-! ### `State.takeFault` -/

@[simp] theorem State.takeFault_regs (s : State) (r : FaultReason) : (s.takeFault r).regs = s.regs := rfl
@[simp] theorem State.takeFault_sp (s : State) (r : FaultReason) : (s.takeFault r).sp = s.sp := rfl
@[simp] theorem State.takeFault_pc (s : State) (r : FaultReason) : (s.takeFault r).pc = s.pc := rfl
@[simp] theorem State.takeFault_flags (s : State) (r : FaultReason) : (s.takeFault r).flags = s.flags := rfl
@[simp] theorem State.takeFault_mem (s : State) (r : FaultReason) : (s.takeFault r).mem = s.mem := rfl
@[simp] theorem State.takeFault_run (s : State) (r : FaultReason) : (s.takeFault r).run = .faulted r s.pc := rfl
@[simp] theorem State.takeFault_draws (s : State) (r : FaultReason) : (s.takeFault r).draws = s.draws := rfl
@[simp] theorem State.takeFault_cfg (s : State) (r : FaultReason) : (s.takeFault r).cfg = s.cfg := rfl

/-! ### Flags -/

@[simp] theorem Flags.setNZ_z {w : Nat} (f : Flags) (v : BitVec w) : (f.setNZ v).z = (v == 0) := rfl
@[simp] theorem Flags.setNZ_n {w : Nat} (f : Flags) (v : BitVec w) : (f.setNZ v).n = v.msb := rfl
@[simp] theorem Flags.setNZ_c {w : Nat} (f : Flags) (v : BitVec w) : (f.setNZ v).c = f.c := rfl
@[simp] theorem Flags.setNZ_o {w : Nat} (f : Flags) (v : BitVec w) : (f.setNZ v).o = f.o := rfl
@[simp] theorem Flags.setNZ_p {w : Nat} (f : Flags) (v : BitVec w) : (f.setNZ v).p = f.p := rfl
@[simp] theorem Flags.setNZ_i {w : Nat} (f : Flags) (v : BitVec w) : (f.setNZ v).i = f.i := rfl
@[simp] theorem Flags.setCO_z (f : Flags) (c o : Bool) : (f.setCO c o).z = f.z := rfl
@[simp] theorem Flags.setCO_n (f : Flags) (c o : Bool) : (f.setCO c o).n = f.n := rfl
@[simp] theorem Flags.setCO_c (f : Flags) (c o : Bool) : (f.setCO c o).c = c := rfl
@[simp] theorem Flags.setCO_o (f : Flags) (c o : Bool) : (f.setCO c o).o = o := rfl
@[simp] theorem Flags.setCO_p (f : Flags) (c o : Bool) : (f.setCO c o).p = f.p := rfl
@[simp] theorem Flags.setCO_i (f : Flags) (c o : Bool) : (f.setCO c o).i = f.i := rfl

/-! ### `INIT` -/

@[simp] theorem State.init_regs (cfg : Config) (i : Init) : (State.init cfg i).regs = i.regs := rfl
@[simp] theorem State.init_sp (cfg : Config) (i : Init) : (State.init cfg i).sp = i.sp := rfl
@[simp] theorem State.init_pc (cfg : Config) (i : Init) : (State.init cfg i).pc = i.pc := rfl
@[simp] theorem State.init_flags (cfg : Config) (i : Init) : (State.init cfg i).flags = i.flags := rfl
@[simp] theorem State.init_mem (cfg : Config) (i : Init) : (State.init cfg i).mem = i.mem := rfl
@[simp] theorem State.init_run (cfg : Config) (i : Init) : (State.init cfg i).run = .running := rfl
@[simp] theorem State.init_draws (cfg : Config) (i : Init) : (State.init cfg i).draws = 0 := rfl
@[simp] theorem State.init_cfg (cfg : Config) (i : Init) : (State.init cfg i).cfg = cfg := rfl

end Sys2Proof.Machine
end

