-- ==== Sys2Proof/Laws/Ops.lean ====
section
/-! SUPPORT. What each shared operation can answer, said once: memory accesses, operand forms, the shared meanings of
each family, and the outcome of a meaning. -/

namespace Sys2Proof.Machine

/-! ## Sequencing -/

@[simp] theorem bind_eq_ok {α β : Type} (x : Except Stop α) (f : α → Except Stop β) (b : β) :
    (x >>= f) = .ok b ↔ ∃ a, x = .ok a ∧ f a = .ok b := by
  cases x <;> simp [bind, Except.bind]

@[simp] theorem bind_eq_error {α β : Type} (x : Except Stop α) (f : α → Except Stop β) (e : Stop) :
    (x >>= f) = .error e ↔ x = .error e ∨ ∃ a, x = .ok a ∧ f a = .error e := by
  cases x <;> simp [bind, Except.bind]

@[simp] theorem ok_bind {α β : Type} (a : α) (f : α → Except Stop β) : ((.ok a : Except Stop α) >>= f) = f a := rfl

@[simp] theorem error_bind {α β : Type} (e : Stop) (f : α → Except Stop β) :
    ((.error e : Except Stop α) >>= f) = .error e := rfl

@[simp] theorem pure_eq_ok {α : Type} (a : α) : (pure a : Except Stop α) = .ok a := rfl

@[simp] theorem unit_exists {p : Unit → Prop} : (∃ x, p x) ↔ p () := ⟨fun ⟨_, h⟩ => h, fun h => ⟨_, h⟩⟩

/-! ## Outcomes -/

@[simp] theorem finish_ok (s t : State) : s.finish (.ok t) = .next t := rfl

@[simp] theorem finish_error (s : State) (e : Stop) : s.finish (.error e) = s.stop e := rfl

/-- A stop answers a next state only by raising a fault, and that state is the fault's entry (`60_exceptions.md` R203). -/
theorem stop_eq_next {s t : State} {e : Stop} : s.stop e = .next t ↔ ∃ r, e = .raise r ∧ t = s.takeFault r := by
  cases e <;> simp [State.stop, eq_comm]

/-- A meaning answers a next state by completing or by raising a fault. -/
theorem finish_eq_next {s t : State} {x : Except Stop State} :
    s.finish x = .next t ↔ x = .ok t ∨ ∃ r, x = .error (.raise r) ∧ t = s.takeFault r := by
  cases x <;> simp [State.finish, stop_eq_next]

/-! ## Memory accesses -/

theorem access_eq_ok {s : State} {a : Addr} : s.access a = .ok () ↔ s.cfg.kindAt a = .ram := by
  unfold State.access
  split <;> simp_all

theorem access_ne_raise {s : State} {a : Addr} {r : FaultReason} : s.access a ≠ .error (.raise r) := by
  unfold State.access
  split <;> simp

theorem accessFrom_ne_raise {s : State} {a : Addr} {n : Nat} {r : FaultReason} :
    s.accessFrom a n ≠ .error (.raise r) := by
  induction n with
  | zero => simp [State.accessFrom]
  | succ n ih => simp [State.accessFrom, ih, access_ne_raise]

theorem accessFrom_ram {s : State} (h : ∀ a, s.cfg.kindAt a = .ram) (a : Addr) (n : Nat) :
    s.accessFrom a n = .ok () := by
  induction n with
  | zero => rfl
  | succ n ih => simp [State.accessFrom, ih, access_eq_ok, h]

/-- A load answers the byte memory holds, or stops; it raises no fault (`20_memory.md` R40). -/
theorem load8_eq_ok {s : State} {a : Addr} {v : Byte} :
    s.load8 a = .ok v ↔ s.access a = .ok () ∧ v = s.mem.read a := by
  simp [State.load8, unit_exists, @eq_comm _ _ v]

theorem load16_eq_ok {s : State} {a : Addr} {v : Word} :
    s.load16 a = .ok v ↔ s.accessFrom a 2 = .ok () ∧ v = s.mem.read16 a := by
  simp [State.load16, unit_exists, @eq_comm _ _ v]

theorem load8_ne_raise {s : State} {a : Addr} {r : FaultReason} : s.load8 a ≠ .error (.raise r) := by
  simp [State.load8, access_ne_raise]

theorem load16_ne_raise {s : State} {a : Addr} {r : FaultReason} : s.load16 a ≠ .error (.raise r) := by
  simp [State.load16, accessFrom_ne_raise]

theorem load8_ram {s : State} (h : ∀ a, s.cfg.kindAt a = .ram) (a : Addr) : s.load8 a = .ok (s.mem.read a) := by
  simp [load8_eq_ok, access_eq_ok, h]

theorem load16_ram {s : State} (h : ∀ a, s.cfg.kindAt a = .ram) (a : Addr) : s.load16 a = .ok (s.mem.read16 a) := by
  simp [load16_eq_ok, accessFrom_ram h]

/-- A store changes memory alone, or stops. -/
theorem store8_eq_ok {s t : State} {a : Addr} {v : Byte} :
    s.store8 a v = .ok t ↔ s.access a = .ok () ∧ t = s.setMem (s.mem.write a v) := by
  simp [State.store8, unit_exists, @eq_comm _ _ t]

theorem store16_eq_ok {s t : State} {a : Addr} {v : Word} :
    s.store16 a v = .ok t ↔ s.accessFrom a 2 = .ok () ∧ t = s.setMem (s.mem.write16 a v) := by
  simp [State.store16, unit_exists, @eq_comm _ _ t]

theorem store8_ne_raise {s : State} {a : Addr} {v : Byte} {r : FaultReason} :
    s.store8 a v ≠ .error (.raise r) := by
  simp [State.store8, access_ne_raise]

theorem store16_ne_raise {s : State} {a : Addr} {v : Word} {r : FaultReason} :
    s.store16 a v ≠ .error (.raise r) := by
  simp [State.store16, accessFrom_ne_raise]

theorem store8_ram {s : State} (h : ∀ a, s.cfg.kindAt a = .ram) (a : Addr) (v : Byte) :
    s.store8 a v = .ok (s.setMem (s.mem.write a v)) := by
  simp [store8_eq_ok, access_eq_ok, h]

theorem store16_ram {s : State} (h : ∀ a, s.cfg.kindAt a = .ram) (a : Addr) (v : Word) :
    s.store16 a v = .ok (s.setMem (s.mem.write16 a v)) := by
  simp [store16_eq_ok, accessFrom_ram h]

/-! ## Register operands -/

theorem reg8_eq_ok {s : State} {b : Byte} {r : Reg8} : s.reg8 b = .ok r ↔ s.cfg.reg8 b = some r := by
  unfold State.reg8
  split <;> simp_all

theorem reg16_eq_ok {s : State} {b : Byte} {r : Reg16} : s.reg16 b = .ok r ↔ s.cfg.reg16 b = some r := by
  unfold State.reg16
  split <;> simp_all

/-- A register byte raises exactly when its map has no register for it, and reports itself (`30_encoding.md` R62). -/
theorem reg8_eq_error {s : State} {b : Byte} {e : Stop} :
    s.reg8 b = .error e ↔ s.cfg.reg8 b = none ∧ e = .raise (.illegalRegister b) := by
  unfold State.reg8
  split <;> simp_all
  exact eq_comm

theorem reg16_eq_error {s : State} {b : Byte} {e : Stop} :
    s.reg16 b = .error e ↔ s.cfg.reg16 b = none ∧ e = .raise (.illegalRegister b) := by
  unfold State.reg16
  split <;> simp_all
  exact eq_comm

/-! ## Operand forms -/

/-- Decoding an operand fails exactly where its register byte does. -/
theorem src_decode_error {w : Nat} {ρ : Type} {m : Byte → Except Stop ρ} {src : Src w Byte} {e : Stop} :
    src.decode m = .error e ↔ ∃ b, src = .reg b ∧ m b = .error e := by
  cases src <;> simp [Src.decode]

theorem dst_decode_error {ρ : Type} {m : Byte → Except Stop ρ} {dst : Dst Byte} {e : Stop} :
    dst.decode m = .error e ↔ ∃ b, dst = .reg b ∧ m b = .error e := by
  cases dst <;> simp [Dst.decode]

/-- Once decoded, an operand raises no fault: only a memory access can still stop it. -/
theorem value8_ne_raise {s : State} {o : Src 8 Reg8} {r : FaultReason} : o.value8 s ≠ .error (.raise r) := by
  cases o <;> simp [Src.value8, load8_ne_raise, load16_ne_raise]

theorem value16_ne_raise {s : State} {o : Src 16 Reg16} {r : FaultReason} : o.value16 s ≠ .error (.raise r) := by
  cases o <;> simp [Src.value16, load16_ne_raise]

theorem place_ne_raise {ρ : Type} {s : State} {p : Dst ρ} {r : FaultReason} : p.place s ≠ .error (.raise r) := by
  cases p <;> simp [Dst.place, load16_ne_raise]

/-- Reading a source is decoding it and reading what that gives. -/
theorem read8_of_decode {s : State} {src : Src 8 Byte} {o : Src 8 Reg8} (h : src.decode s.reg8 = .ok o) :
    src.read8 s = o.value8 s := by simp [Src.read8, h]

theorem read16_of_decode {s : State} {src : Src 16 Byte} {o : Src 16 Reg16} (h : src.decode s.reg16 = .ok o) :
    src.read16 s = o.value16 s := by simp [Src.read16, h]

theorem resolve8_of_decode {s : State} {dst : Dst Byte} {p : Dst Reg8} (h : dst.decode s.reg8 = .ok p) :
    dst.resolve8 s = p.place s := by simp [Dst.resolve8, h]

theorem resolve16_of_decode {s : State} {dst : Dst Byte} {p : Dst Reg16} (h : dst.decode s.reg16 = .ok p) :
    dst.resolve16 s = p.place s := by simp [Dst.resolve16, h]

/-- What reading an 8-bit source operand can raise: only an unmapped register byte. -/
theorem read8_raise {s : State} {src : Src 8 Byte} {r : FaultReason} :
    src.read8 s = .error (.raise r) ↔
      ∃ b, src = .reg b ∧ s.cfg.reg8 b = none ∧ r = .illegalRegister b := by
  simp [Src.read8, src_decode_error, value8_ne_raise, reg8_eq_error]

theorem read16_raise {s : State} {src : Src 16 Byte} {r : FaultReason} :
    src.read16 s = .error (.raise r) ↔
      ∃ b, src = .reg b ∧ s.cfg.reg16 b = none ∧ r = .illegalRegister b := by
  simp [Src.read16, src_decode_error, value16_ne_raise, reg16_eq_error]

/-- What a MOV destination can be written as: one byte of memory, or one register. -/
theorem put8_eq_ok {s t : State} {v : Byte} {l : Loc Reg8} :
    s.put8 v l = .ok t ↔
      (∃ a, l = .mem a ∧ s.access a = .ok () ∧ t = s.setMem (s.mem.write a v)) ∨
      (∃ r, l = .reg r ∧ t = s.setReg8 r v) := by
  cases l <;> simp [State.put8, store8_eq_ok]
  exact eq_comm

theorem put16_eq_ok {s t : State} {v : Word} {l : Loc Reg16} :
    s.put16 v l = .ok t ↔
      (∃ a, l = .mem a ∧ s.accessFrom a 2 = .ok () ∧ t = s.setMem (s.mem.write16 a v)) ∨
      (∃ r, l = .reg r ∧ t = s.setReg16 r v) := by
  cases l <;> simp [State.put16, store16_eq_ok]
  exact eq_comm

theorem put8_ne_raise {s : State} {v : Byte} {l : Loc Reg8} {r : FaultReason} : s.put8 v l ≠ .error (.raise r) := by
  cases l <;> simp [State.put8, store8_ne_raise]

theorem put16_ne_raise {s : State} {v : Word} {l : Loc Reg16} {r : FaultReason} :
    s.put16 v l ≠ .error (.raise r) := by
  cases l <;> simp [State.put16, store16_ne_raise]

/-! ## The shared meanings -/

/-- `t` is the entry of the fault `r` raised in `s` (`60_exceptions.md` R203). -/
abbrev RaisedFrom (s t : State) (r : FaultReason) : Prop := t = s.takeFault r

/-- Everything ADD, SUB and MUL can do (`40_arithmetic_logic.md` R100). -/
theorem arith8_next {op : AluOp} {src : Src 8 Byte} {len : Addr} {s t : State} (h : arith8 op src len s = .next t) :
    (∃ d, src.read8 s = .ok d ∧
      t = ((s.setReg8 .a (aluW op (s.regs.get .a) d).res).setFlags
        (aluFlags s.cfg op (s.regs.get .a) d s.flags)).advance len) ∨
    (∃ b, src = .reg b ∧ s.cfg.reg8 b = none ∧ RaisedFrom s t (.illegalRegister b)) := by
  rcases finish_eq_next.mp h with h | ⟨r, h, ht⟩
  · obtain ⟨d, hd, h⟩ := (bind_eq_ok _ _ _).mp h
    exact .inl ⟨d, hd, by simpa [eq_comm] using h⟩
  · rcases (bind_eq_error _ _ _).mp h with h | ⟨d, -, h⟩
    · obtain ⟨b, hb, hn, hr⟩ := read8_raise.mp h
      exact .inr ⟨b, hb, hn, hr ▸ ht⟩
    · simp at h

/-- Everything ADDX, SUBX and MULX can do (R100). -/
theorem arith16_next {op : AluOp} {src : Src 16 Byte} {len : Addr} {s t : State} (h : arith16 op src len s = .next t) :
    (∃ d, src.read16 s = .ok d ∧
      t = ((s.setReg16 .ab (aluW op (s.regs.getPair .ab) d).res).setFlags
        (aluFlags s.cfg op (s.regs.getPair .ab) d s.flags)).advance len) ∨
    (∃ b, src = .reg b ∧ s.cfg.reg16 b = none ∧ RaisedFrom s t (.illegalRegister b)) := by
  rcases finish_eq_next.mp h with h | ⟨r, h, ht⟩
  · obtain ⟨d, hd, h⟩ := (bind_eq_ok _ _ _).mp h
    exact .inl ⟨d, hd, by simpa [eq_comm] using h⟩
  · rcases (bind_eq_error _ _ _).mp h with h | ⟨d, -, h⟩
    · obtain ⟨b, hb, hn, hr⟩ := read16_raise.mp h
      exact .inr ⟨b, hb, hn, hr ▸ ht⟩
    · simp at h

theorem divCheck_eq_ok {s : State} {z : Bool} : divCheck s z = .ok () ↔ s.cfg.divSigned = false ∧ z = false := by
  unfold divCheck
  split <;> [skip; split] <;> simp_all

theorem divCheck_raise {s : State} {z : Bool} {r : FaultReason} :
    divCheck s z = .error (.raise r) ↔ s.cfg.divSigned = false ∧ z = true ∧ r = .divideByZero := by
  unfold divCheck
  split <;> [skip; split] <;> simp_all
  exact eq_comm

/-- Everything DIV can do (R104). -/
theorem div8_next {src : Src 8 Byte} {len : Addr} {s t : State} (h : div8 src len s = .next t) :
    (∃ d, src.read8 s = .ok d ∧ d ≠ 0 ∧ s.cfg.divSigned = false ∧
      t = (((s.setReg8 .a (aluW .div (s.regs.get .a) d).res).setReg8 .b (remW (s.regs.get .a) d)).setFlags
        (divFlags s.cfg (s.regs.get .a) d s.flags)).advance len) ∨
    (src.read8 s = .ok 0 ∧ RaisedFrom s t .divideByZero) ∨
    (∃ b, src = .reg b ∧ s.cfg.reg8 b = none ∧ RaisedFrom s t (.illegalRegister b)) := by
  rcases finish_eq_next.mp h with h | ⟨r, h, ht⟩
  · obtain ⟨d, hd, h⟩ := (bind_eq_ok _ _ _).mp h
    obtain ⟨⟨⟩, hc, h⟩ := (bind_eq_ok _ _ _).mp h
    obtain ⟨hs, hz⟩ := divCheck_eq_ok.mp hc
    exact .inl ⟨d, hd, by simpa using hz, hs, by simpa [eq_comm] using h⟩
  · rcases (bind_eq_error _ _ _).mp h with h | ⟨d, hd, h⟩
    · obtain ⟨b, hb, hn, hr⟩ := read8_raise.mp h
      exact .inr (.inr ⟨b, hb, hn, hr ▸ ht⟩)
    · rcases (bind_eq_error _ _ _).mp h with h | ⟨-, -, h⟩
      · obtain ⟨-, hz, hr⟩ := divCheck_raise.mp h
        have hz : d = 0 := by simpa using hz
        exact .inr (.inl ⟨hz ▸ hd, hr ▸ ht⟩)
      · simp at h

/-- Everything DIVX can do (R104). -/
theorem div16_next {src : Src 16 Byte} {len : Addr} {s t : State} (h : div16 src len s = .next t) :
    (∃ d, src.read16 s = .ok d ∧ d ≠ 0 ∧ s.cfg.divSigned = false ∧
      t = (((s.setReg16 .ab (aluW .div (s.regs.getPair .ab) d).res).setReg16 .cd
        (remW (s.regs.getPair .ab) d)).setFlags (divFlags s.cfg (s.regs.getPair .ab) d s.flags)).advance len) ∨
    (src.read16 s = .ok 0 ∧ RaisedFrom s t .divideByZero) ∨
    (∃ b, src = .reg b ∧ s.cfg.reg16 b = none ∧ RaisedFrom s t (.illegalRegister b)) := by
  rcases finish_eq_next.mp h with h | ⟨r, h, ht⟩
  · obtain ⟨d, hd, h⟩ := (bind_eq_ok _ _ _).mp h
    obtain ⟨⟨⟩, hc, h⟩ := (bind_eq_ok _ _ _).mp h
    obtain ⟨hs, hz⟩ := divCheck_eq_ok.mp hc
    exact .inl ⟨d, hd, by simpa using hz, hs, by simpa [eq_comm] using h⟩
  · rcases (bind_eq_error _ _ _).mp h with h | ⟨d, hd, h⟩
    · obtain ⟨b, hb, hn, hr⟩ := read16_raise.mp h
      exact .inr (.inr ⟨b, hb, hn, hr ▸ ht⟩)
    · rcases (bind_eq_error _ _ _).mp h with h | ⟨-, -, h⟩
      · obtain ⟨-, hz, hr⟩ := divCheck_raise.mp h
        have hz : d = 0 := by simpa using hz
        exact .inr (.inl ⟨hz ▸ hd, hr ▸ ht⟩)
      · simp at h

/-- Everything MOV can do (`42_data_memory.md` R161, `00_scope.md` R7). -/
theorem mov8_next {src : Src 8 Byte} {dst : Dst Byte} {len : Addr} {s t : State} (h : mov8 src dst len s = .next t) :
    (∃ v l u, src.read8 s = .ok v ∧ dst.resolve8 s = .ok l ∧ s.put8 v l = .ok u ∧
      t = (u.setFlags (s.flags.setNZ v)).advance len) ∨
    (∃ b, (src = .reg b ∨ dst = .reg b) ∧ s.cfg.reg8 b = none ∧ RaisedFrom s t (.illegalRegister b)) := by
  rcases finish_eq_next.mp h with h | ⟨r, h, ht⟩
  · obtain ⟨o, ho, h⟩ := (bind_eq_ok _ _ _).mp h
    obtain ⟨p, hp, h⟩ := (bind_eq_ok _ _ _).mp h
    obtain ⟨v, hv, h⟩ := (bind_eq_ok _ _ _).mp h
    obtain ⟨l, hl, h⟩ := (bind_eq_ok _ _ _).mp h
    obtain ⟨u, hu, h⟩ := (bind_eq_ok _ _ _).mp h
    exact .inl ⟨v, l, u, read8_of_decode ho ▸ hv, resolve8_of_decode hp ▸ hl, hu, by simpa [eq_comm] using h⟩
  · rcases (bind_eq_error _ _ _).mp h with h | ⟨o, -, h⟩
    · obtain ⟨b, hb, hm⟩ := src_decode_error.mp h
      obtain ⟨hn, hr⟩ := reg8_eq_error.mp hm
      simp only [Stop.raise.injEq] at hr
      exact .inr ⟨b, .inl hb, hn, hr ▸ ht⟩
    rcases (bind_eq_error _ _ _).mp h with h | ⟨p, -, h⟩
    · obtain ⟨b, hb, hm⟩ := dst_decode_error.mp h
      obtain ⟨hn, hr⟩ := reg8_eq_error.mp hm
      simp only [Stop.raise.injEq] at hr
      exact .inr ⟨b, .inr hb, hn, hr ▸ ht⟩
    rcases (bind_eq_error _ _ _).mp h with h | ⟨v, -, h⟩
    · exact absurd h value8_ne_raise
    rcases (bind_eq_error _ _ _).mp h with h | ⟨l, -, h⟩
    · exact absurd h place_ne_raise
    rcases (bind_eq_error _ _ _).mp h with h | ⟨u, -, h⟩
    · exact absurd h put8_ne_raise
    · simp at h

/-- A MOV whose operands read and whose write succeeds completes in the state written, flags and PC updated. -/
theorem mov8_ok {src : Src 8 Byte} {dst : Dst Byte} {len : Addr} {s u : State} {v : Byte} {l : Loc Reg8}
    (hv : src.read8 s = .ok v) (hl : dst.resolve8 s = .ok l) (hu : s.put8 v l = .ok u) :
    mov8 src dst len s = .next ((u.setFlags (s.flags.setNZ v)).advance len) := by
  obtain ⟨o, ho, hv⟩ := (bind_eq_ok _ _ _).mp hv
  obtain ⟨p, hp, hl⟩ := (bind_eq_ok _ _ _).mp hl
  simp [mov8, ho, hp, hv, hl, hu]

/-- A register byte that does not decode stops a MOV before any memory is read (`00_scope.md` R7): the source's first. -/
theorem mov8_src_unmapped {b : Byte} {dst : Dst Byte} {len : Addr} {s : State} (h : s.cfg.reg8 b = none) :
    mov8 (.reg b) dst len s = .next (s.takeFault (.illegalRegister b)) := by
  simp [mov8, Src.decode, reg8_eq_error.mpr ⟨h, rfl⟩, State.stop]

theorem mov8_dst_unmapped {src : Src 8 Byte} {b : Byte} {len : Addr} {s : State}
    (hs : ∀ c, src = .reg c → s.cfg.reg8 c ≠ none) (h : s.cfg.reg8 b = none) :
    mov8 src (.reg b) len s = .next (s.takeFault (.illegalRegister b)) := by
  cases ho : src.decode s.reg8 with
  | error e =>
    obtain ⟨c, hc, hm⟩ := src_decode_error.mp ho
    exact absurd (reg8_eq_error.mp hm).1 (hs c hc)
  | ok o => simp [mov8, ho, Dst.decode, reg8_eq_error.mpr ⟨h, rfl⟩, State.stop]

/-- Everything MOVX can do (R161, R7). -/
theorem mov16_next {src : Src 16 Byte} {dst : Dst Byte} {len : Addr} {s t : State} (h : mov16 src dst len s = .next t) :
    (∃ v l u, src.read16 s = .ok v ∧ dst.resolve16 s = .ok l ∧ s.put16 v l = .ok u ∧
      t = (u.setFlags (s.flags.setNZ v)).advance len) ∨
    (∃ b, (src = .reg b ∨ dst = .reg b) ∧ s.cfg.reg16 b = none ∧ RaisedFrom s t (.illegalRegister b)) := by
  rcases finish_eq_next.mp h with h | ⟨r, h, ht⟩
  · obtain ⟨o, ho, h⟩ := (bind_eq_ok _ _ _).mp h
    obtain ⟨p, hp, h⟩ := (bind_eq_ok _ _ _).mp h
    obtain ⟨v, hv, h⟩ := (bind_eq_ok _ _ _).mp h
    obtain ⟨l, hl, h⟩ := (bind_eq_ok _ _ _).mp h
    obtain ⟨u, hu, h⟩ := (bind_eq_ok _ _ _).mp h
    exact .inl ⟨v, l, u, read16_of_decode ho ▸ hv, resolve16_of_decode hp ▸ hl, hu, by simpa [eq_comm] using h⟩
  · rcases (bind_eq_error _ _ _).mp h with h | ⟨o, -, h⟩
    · obtain ⟨b, hb, hm⟩ := src_decode_error.mp h
      obtain ⟨hn, hr⟩ := reg16_eq_error.mp hm
      simp only [Stop.raise.injEq] at hr
      exact .inr ⟨b, .inl hb, hn, hr ▸ ht⟩
    rcases (bind_eq_error _ _ _).mp h with h | ⟨p, -, h⟩
    · obtain ⟨b, hb, hm⟩ := dst_decode_error.mp h
      obtain ⟨hn, hr⟩ := reg16_eq_error.mp hm
      simp only [Stop.raise.injEq] at hr
      exact .inr ⟨b, .inr hb, hn, hr ▸ ht⟩
    rcases (bind_eq_error _ _ _).mp h with h | ⟨v, -, h⟩
    · exact absurd h value16_ne_raise
    rcases (bind_eq_error _ _ _).mp h with h | ⟨l, -, h⟩
    · exact absurd h place_ne_raise
    rcases (bind_eq_error _ _ _).mp h with h | ⟨u, -, h⟩
    · exact absurd h put16_ne_raise
    · simp at h

/-- A MOVX whose operands read and whose write succeeds completes in the state written, flags and PC updated. -/
theorem mov16_ok {src : Src 16 Byte} {dst : Dst Byte} {len : Addr} {s u : State} {v : Word} {l : Loc Reg16}
    (hv : src.read16 s = .ok v) (hl : dst.resolve16 s = .ok l) (hu : s.put16 v l = .ok u) :
    mov16 src dst len s = .next ((u.setFlags (s.flags.setNZ v)).advance len) := by
  obtain ⟨o, ho, hv⟩ := (bind_eq_ok _ _ _).mp hv
  obtain ⟨p, hp, hl⟩ := (bind_eq_ok _ _ _).mp hl
  simp [mov16, ho, hp, hv, hl, hu]

/-- A register byte that does not decode stops a MOVX before any memory is read (`00_scope.md` R7): the source's first. -/
theorem mov16_src_unmapped {b : Byte} {dst : Dst Byte} {len : Addr} {s : State} (h : s.cfg.reg16 b = none) :
    mov16 (.reg b) dst len s = .next (s.takeFault (.illegalRegister b)) := by
  simp [mov16, Src.decode, reg16_eq_error.mpr ⟨h, rfl⟩, State.stop]

theorem mov16_dst_unmapped {src : Src 16 Byte} {b : Byte} {len : Addr} {s : State}
    (hs : ∀ c, src = .reg c → s.cfg.reg16 c ≠ none) (h : s.cfg.reg16 b = none) :
    mov16 src (.reg b) len s = .next (s.takeFault (.illegalRegister b)) := by
  cases ho : src.decode s.reg16 with
  | error e =>
    obtain ⟨c, hc, hm⟩ := src_decode_error.mp ho
    exact absurd (reg16_eq_error.mp hm).1 (hs c hc)
  | ok o => simp [mov16, ho, Dst.decode, reg16_eq_error.mpr ⟨h, rfl⟩, State.stop]

/-- Everything SWP can do (R186). -/
theorem swp_next {r1 r2 : Byte} {s t : State} (h : execSwp r1 r2 s = .next t) :
    (∃ x y, s.cfg.reg8 r1 = some x ∧ s.cfg.reg8 r2 = some y ∧
      t = (((s.setReg8 x (s.regs.get y)).setReg8 y (s.regs.get x)).setSwpNZ (s.regs.get y) (s.regs.get x)).advance 3) ∨
    (∃ b, (b = r1 ∨ b = r2) ∧ s.cfg.reg8 b = none ∧ RaisedFrom s t (.illegalRegister b)) := by
  rcases finish_eq_next.mp h with h | ⟨r, h, ht⟩
  · obtain ⟨x, hx, h⟩ := (bind_eq_ok _ _ _).mp h
    obtain ⟨y, hy, h⟩ := (bind_eq_ok _ _ _).mp h
    exact .inl ⟨x, y, reg8_eq_ok.mp hx, reg8_eq_ok.mp hy, by simpa [eq_comm] using h⟩
  · rcases (bind_eq_error _ _ _).mp h with h | ⟨x, -, h⟩
    · obtain ⟨hn, hr⟩ := reg8_eq_error.mp h
      simp only [Stop.raise.injEq] at hr
      exact .inr ⟨r1, .inl rfl, hn, hr ▸ ht⟩
    · rcases (bind_eq_error _ _ _).mp h with h | ⟨y, -, h⟩
      · obtain ⟨hn, hr⟩ := reg8_eq_error.mp h
        simp only [Stop.raise.injEq] at hr
        exact .inr ⟨r2, .inr rfl, hn, hr ▸ ht⟩
      · simp at h

/-- What SWP's flag write leaves alone, whatever `SWP_NZ` (R186). -/
theorem setSwpNZ_frame (s : State) (x y : Byte) :
    ∃ z n k, s.setSwpNZ x y = { s with flags := { s.flags with z := z, n := n }, draws := k } := by
  unfold State.setSwpNZ
  split
  · exact ⟨_, _, _, rfl⟩
  · exact ⟨_, _, _, rfl⟩
  · exact ⟨_, _, _, rfl⟩

/-- Everything PUSH can do (R187). -/
theorem push_next {s t : State} (h : execPush s = .next t) :
    s.access (s.sp + 1) = .ok () ∧
      t = ((((s.setSp (s.sp + 1)).setMem (s.mem.write (s.sp + 1) (s.regs.get .a)))).setFlags
        (s.flags.setNZ (s.regs.get .a))).advance 1 := by
  rcases finish_eq_next.mp h with h | ⟨r, h, -⟩
  · obtain ⟨u, hu, h⟩ := (bind_eq_ok _ _ _).mp h
    obtain ⟨ha, rfl⟩ := store8_eq_ok.mp hu
    exact ⟨ha, by simpa [eq_comm] using h⟩
  · rcases (bind_eq_error _ _ _).mp h with h | ⟨u, -, h⟩
    · exact absurd h store8_ne_raise
    · simp at h

/-- Everything POP can do (R188). -/
theorem pop_next {s t : State} (h : execPop s = .next t) :
    s.access s.sp = .ok () ∧
      t = (((s.setReg8 .a (s.mem.read s.sp)).setSp (s.sp - 1)).setFlags
        (s.flags.setNZ (s.mem.read s.sp))).advance 1 := by
  rcases finish_eq_next.mp h with h | ⟨r, h, -⟩
  · obtain ⟨v, hv, h⟩ := (bind_eq_ok _ _ _).mp h
    obtain ⟨ha, rfl⟩ := load8_eq_ok.mp hv
    exact ⟨ha, by simpa [eq_comm] using h⟩
  · rcases (bind_eq_error _ _ _).mp h with h | ⟨v, -, h⟩
    · exact absurd h load8_ne_raise
    · simp at h

/-- Everything a step can do (`70_reset_and_hazards.md` R227). -/
theorem step_next {s t : State} (h : step s = .next t) :
    s.run = .running ∧
      ((∃ i, s.fetchInstr = .ok i ∧ exec i s = .next t) ∨
       (∃ b, decode s.cfg s.fetchByte = .error (.illegalOpcode b) ∧ t = s.takeFault (.illegalOpcode b))) := by
  unfold step at h
  split at h
  · simp at h
  · simp at h
  · next hr =>
    refine ⟨hr, ?_⟩
    split at h
    · next e he =>
      obtain ⟨r, rfl, ht⟩ := stop_eq_next.mp h
      unfold State.fetchInstr at he
      rcases (bind_eq_error _ _ _).mp he with he | ⟨-, -, he⟩
      · exact absurd he access_ne_raise
      · split at he
        · next b hb =>
          simp only [Except.error.injEq, Stop.raise.injEq] at he
          exact .inr ⟨b, hb, he ▸ ht⟩
        · rcases (bind_eq_error _ _ _).mp he with he | ⟨-, -, he⟩
          · exact absurd he accessFrom_ne_raise
          · simp at he
    · next i hi => exact .inl ⟨i, hi, h⟩

end Sys2Proof.Machine
end

