-- ==== Sys2Proof/Laws/Run.lean ====
section
/-! SUPPORT. Runs of several steps. -/

namespace Sys2Proof.Machine

@[simp] theorem runSteps_zero (s : State) : runSteps 0 s = .next s := rfl

theorem runSteps_succ {s t : State} (n : Nat) (h : step s = .next t) : runSteps (n + 1) s = runSteps n t := by
  simp [runSteps, h]

theorem runSteps_fault {s : State} {f : Fault} (n : Nat) (h : step s = .fault f) : runSteps (n + 1) s = .fault f := by
  simp [runSteps, h]

theorem runSteps_refused {s : State} {r : Refusal} (n : Nat) (h : step s = .refused r) :
    runSteps (n + 1) s = .refused r := by
  simp [runSteps, h]

theorem run_next (M : Host.Core) (n : Nat) {s t : M.State} (h : M.step s = .next t) : M.run (n + 1) s = M.run n t := by
  simp [Host.Core.run, h]

theorem run_fault (M : Host.Core) (n : Nat) {s : M.State} {f : M.Fault} (h : M.step s = .fault f) :
    M.run (n + 1) s = .fault f := by
  simp [Host.Core.run, h]

theorem run_refused (M : Host.Core) (n : Nat) {s : M.State} {r : M.Refusal} (h : M.step s = .refused r) :
    M.run (n + 1) s = .refused r := by
  simp [Host.Core.run, h]

/-- A run of the host's machine is a run of steps. -/
theorem core_run_eq (n : Nat) (s : State) : Sys2Proof.core.run n s = runSteps n s := by
  induction n generalizing s with
  | zero => rfl
  | succ n ih =>
    cases h : step s with
    | next t => exact (run_next Sys2Proof.core n h).trans ((ih t).trans (runSteps_succ n h).symm)
    | fault f => exact (run_fault Sys2Proof.core n h).trans (runSteps_fault n h).symm
    | refused r => exact (run_refused Sys2Proof.core n h).trans (runSteps_refused n h).symm

end Sys2Proof.Machine
end

