-- ==== Sys2Proof/Machine/Assembler.lean ====
section
/-! DEFINITION. The assembler line of an instruction (`30_encoding.md` R65 to R67). Nothing of the machine depends on
this file: the spec describes no assembler program, only how its lines are written (entry 45). -/

namespace Sys2Proof

/-- A written operand (R65). -/
inductive AsmOperand where
  /-- `#oper`, two digits. -/
  | imm8 (v : Byte)
  /-- `#oper`, four digits. -/
  | imm16 (v : Word)
  /-- `oper`. -/
  | abs (a : Addr)
  /-- `@oper`. -/
  | ind (a : Addr)
  /-- The name of an 8-bit register, through `REGCODE8`. -/
  | reg (b : Byte)
  /-- The name of a register pair, through `REGCODE16`. -/
  | pair (b : Byte)
deriving DecidableEq, Repr

/-- The written operands of an instruction, in order: for MOV and MOVX the source, then the destination (R67). -/
def Instr.asmOperands : Instr → List AsmOperand
  | .nop => []
  | .hcf => []
  | .push => []
  | .pop => []
  | .swp r1 r2 => [.reg r1, .reg r2]
  | .addImm v => [.imm8 v]
  | .addAbs a => [.abs a]
  | .addInd a => [.ind a]
  | .addReg r => [.reg r]
  | .addxImm v => [.imm16 v]
  | .addxAbs a => [.abs a]
  | .addxInd a => [.ind a]
  | .addxReg r => [.pair r]
  | .subImm v => [.imm8 v]
  | .subAbs a => [.abs a]
  | .subInd a => [.ind a]
  | .subReg r => [.reg r]
  | .subxImm v => [.imm16 v]
  | .subxAbs a => [.abs a]
  | .subxInd a => [.ind a]
  | .subxReg r => [.pair r]
  | .mulImm v => [.imm8 v]
  | .mulAbs a => [.abs a]
  | .mulInd a => [.ind a]
  | .mulReg r => [.reg r]
  | .mulxImm v => [.imm16 v]
  | .mulxAbs a => [.abs a]
  | .mulxInd a => [.ind a]
  | .mulxReg r => [.pair r]
  | .divImm v => [.imm8 v]
  | .divAbs a => [.abs a]
  | .divInd a => [.ind a]
  | .divReg r => [.reg r]
  | .divxImm v => [.imm16 v]
  | .divxAbs a => [.abs a]
  | .divxInd a => [.ind a]
  | .divxReg r => [.pair r]
  | .movImmAbs v dst => [.imm8 v, .abs dst]
  | .movAbsAbs src dst => [.abs src, .abs dst]
  | .movIndAbs src dst => [.ind src, .abs dst]
  | .movRegAbs rs dst => [.reg rs, .abs dst]
  | .movImmInd v dst => [.imm8 v, .ind dst]
  | .movAbsInd src dst => [.abs src, .ind dst]
  | .movIndInd src dst => [.ind src, .ind dst]
  | .movRegInd rs dst => [.reg rs, .ind dst]
  | .movImmReg v rd => [.imm8 v, .reg rd]
  | .movAbsReg src rd => [.abs src, .reg rd]
  | .movIndReg src rd => [.ind src, .reg rd]
  | .movRegReg rs rd => [.reg rs, .reg rd]
  | .movxImmAbs v dst => [.imm16 v, .abs dst]
  | .movxAbsAbs src dst => [.abs src, .abs dst]
  | .movxIndAbs src dst => [.ind src, .abs dst]
  | .movxRegAbs rs dst => [.pair rs, .abs dst]
  | .movxImmInd v dst => [.imm16 v, .ind dst]
  | .movxAbsInd src dst => [.abs src, .ind dst]
  | .movxIndInd src dst => [.ind src, .ind dst]
  | .movxRegInd rs dst => [.pair rs, .ind dst]
  | .movxImmReg v rd => [.imm16 v, .pair rd]
  | .movxAbsReg src rd => [.abs src, .pair rd]
  | .movxIndReg src rd => [.ind src, .pair rd]
  | .movxRegReg rs rd => [.pair rs, .pair rd]

/-- The names of the 8-bit registers (R65). -/
def Reg8.name : Reg8 → String
  | .a => "A"
  | .b => "B"
  | .c => "C"
  | .d => "D"
  | .e => "E"
  | .f => "F"
  | .g => "G"
  | .h => "H"

/-- The names of the pairs (R65). -/
def Reg16.name : Reg16 → String
  | .ab => "AB"
  | .cd => "CD"
  | .ef => "EF"
  | .gh => "GH"

/-- The n lowest hexadecimal digits of a number. -/
def hexDigits : Nat → Nat → String
  | 0, _ => ""
  | n + 1, v => hexDigits n (v / 16) ++ String.singleton ("0123456789ABCDEF".toList.getD (v % 16) '0')

/-- A number as the spec writes it, `0x` and capital hexadecimal digits (R65): DESIGN CHOICE, safe, entry 45. -/
def hexNumber (n v : Nat) : String := "0x" ++ hexDigits n v

/-- An operand as text; `none` where the map of its width names no register (R65). -/
def AsmOperand.text (cfg : Config) : AsmOperand → Option String
  | .imm8 v => some ("#" ++ hexNumber 2 v.toNat)
  | .imm16 v => some ("#" ++ hexNumber 4 v.toNat)
  | .abs a => some (hexNumber 4 a.toNat)
  | .ind a => some ("@" ++ hexNumber 4 a.toNat)
  | .reg b => (cfg.reg8 b).map Reg8.name
  | .pair b => (cfg.reg16 b).map Reg16.name

/-- The assembler line of an instruction: the mnemonic, a space, the operands with a comma and a space between them
(R65); one line is one instruction (R66). -/
def Instr.asm (cfg : Config) (i : Instr) : Option String :=
  match i.asmOperands with
  | [] => some i.opcode.mnemonic
  | [x] => (x.text cfg).map fun s => i.opcode.mnemonic ++ " " ++ s
  | x :: y :: _ =>
    match x.text cfg, y.text cfg with
    | some s, some t => some (i.opcode.mnemonic ++ " " ++ s ++ ", " ++ t)
    | _, _ => none

end Sys2Proof
end

