-- ==== Sys2Proof/Tests/Slice0.lean ====
section
/-! SUPPORT. The model's own tests. Expected words are written out from the encoding table R52 of `30_encoding.md`;
expected states are the vectors V-... of `95_test_vectors.md`, which the spec derives from its rules. -/

namespace Sys2Proof.Tests

open Sys2Proof.Machine

/-- The default start state of `95_test_vectors.md` with code at an address, PC there, and data. -/
def start (pc : Addr) (code : List Byte) (data : List (Addr × List Byte)) : State :=
  { State.reset with pc := pc, mem := ((pc, code) :: data).foldl (fun m d => m.writeBytes d.1 d.2) [] }

/-- All registers zero. -/
def zeros : Regs := State.reset.regs

/-- All flags clear. -/
def clear : Flags := State.reset.flags

/-- The next state of a step meets a test. -/
def after (s : State) (p : State → Bool) : Bool :=
  match step s with
  | .next t => p t
  | .fault _ => false
  | .refused _ => false

/-! ## Well-formedness: what the checks refuse -/

theorem test_wf_refuses_unmapped_byte : (Instr.addReg 0x08).wf Config.default = false := by decide

theorem test_wf_refuses_unmapped_pair : (Instr.mulxReg 0x04).wf Config.default = false := by decide

theorem test_wf_refuses_second_byte : (Instr.swp 0x07 0x08).wf Config.default = false := by decide

theorem test_wf_refuses_mov_destination : (Instr.movImmReg 0x00 0xFF).wf Config.default = false := by decide

theorem test_wf_refuses_movx_source : (Instr.movxRegAbs 0x04 0x4000).wf Config.default = false := by decide

theorem test_wf_accepts :
    (Instr.swp 0x00 0x07).wf Config.default = true ∧ (Instr.movxRegReg 0x00 0x03).wf Config.default = true ∧
    (Instr.addImm 0xFF).wf Config.default = true := by decide

theorem test_config_wf_default : Config.default.wf = true := by decide

theorem test_config_wf_refuses_short_list : { Config.default with movForms := defaultMovForms.tail }.wf = false := by
  decide

theorem test_config_wf_refuses_repeated_form :
    { Config.default with movxForms := ⟨.reg, .reg⟩ :: defaultMovForms.tail }.wf = false := by decide

theorem test_memory_wf_refuses :
    Memory.wf [(1, 0x01), (0, 0x01)] = false ∧ Memory.wf [(1, 0x01), (1, 0x02)] = false ∧
    Memory.wf [(0, 0x00)] = false ∧ Memory.wf [(65536, 0x01)] = false := by decide

/-! ## Decoding: one word per constructor -/

theorem test_decode_implied :
    decodeTableWord 8 0x00 = some .nop ∧
    decodeTableWord 8 0x01 = some .hcf ∧
    decodeTableWord 8 0x02 = some .push ∧
    decodeTableWord 8 0x03 = some .pop ∧
    decodeTableWord 24 0x341204 = some (.swp 0x12 0x34) := by decide

theorem test_decode_add :
    decodeTableWord 16 0x1210 = some (.addImm 0x12) ∧
    decodeTableWord 24 0x341211 = some (.addAbs 0x1234) ∧
    decodeTableWord 24 0x341212 = some (.addInd 0x1234) ∧
    decodeTableWord 16 0x1213 = some (.addReg 0x12) := by decide

theorem test_decode_addx :
    decodeTableWord 24 0x341214 = some (.addxImm 0x1234) ∧
    decodeTableWord 24 0x341215 = some (.addxAbs 0x1234) ∧
    decodeTableWord 24 0x341216 = some (.addxInd 0x1234) ∧
    decodeTableWord 16 0x1217 = some (.addxReg 0x12) := by decide

theorem test_decode_sub :
    decodeTableWord 16 0x1218 = some (.subImm 0x12) ∧
    decodeTableWord 24 0x341219 = some (.subAbs 0x1234) ∧
    decodeTableWord 24 0x34121A = some (.subInd 0x1234) ∧
    decodeTableWord 16 0x121B = some (.subReg 0x12) := by decide

theorem test_decode_subx :
    decodeTableWord 24 0x34121C = some (.subxImm 0x1234) ∧
    decodeTableWord 24 0x34121D = some (.subxAbs 0x1234) ∧
    decodeTableWord 24 0x34121E = some (.subxInd 0x1234) ∧
    decodeTableWord 16 0x121F = some (.subxReg 0x12) := by decide

theorem test_decode_mul :
    decodeTableWord 16 0x1220 = some (.mulImm 0x12) ∧
    decodeTableWord 24 0x341221 = some (.mulAbs 0x1234) ∧
    decodeTableWord 24 0x341222 = some (.mulInd 0x1234) ∧
    decodeTableWord 16 0x1223 = some (.mulReg 0x12) := by decide

theorem test_decode_mulx :
    decodeTableWord 24 0x341224 = some (.mulxImm 0x1234) ∧
    decodeTableWord 24 0x341225 = some (.mulxAbs 0x1234) ∧
    decodeTableWord 24 0x341226 = some (.mulxInd 0x1234) ∧
    decodeTableWord 16 0x1227 = some (.mulxReg 0x12) := by decide

theorem test_decode_div :
    decodeTableWord 16 0x1228 = some (.divImm 0x12) ∧
    decodeTableWord 24 0x341229 = some (.divAbs 0x1234) ∧
    decodeTableWord 24 0x34122A = some (.divInd 0x1234) ∧
    decodeTableWord 16 0x122B = some (.divReg 0x12) := by decide

theorem test_decode_divx :
    decodeTableWord 24 0x34122C = some (.divxImm 0x1234) ∧
    decodeTableWord 24 0x34122D = some (.divxAbs 0x1234) ∧
    decodeTableWord 24 0x34122E = some (.divxInd 0x1234) ∧
    decodeTableWord 16 0x122F = some (.divxReg 0x12) := by decide

theorem test_decode_mov :
    decodeTableWord 32 0x56341230 = some (.movImmAbs 0x12 0x3456) ∧
    decodeTableWord 40 0x7856341231 = some (.movAbsAbs 0x1234 0x5678) ∧
    decodeTableWord 40 0x7856341232 = some (.movIndAbs 0x1234 0x5678) ∧
    decodeTableWord 32 0x56341233 = some (.movRegAbs 0x12 0x3456) ∧
    decodeTableWord 32 0x56341234 = some (.movImmInd 0x12 0x3456) ∧
    decodeTableWord 40 0x7856341235 = some (.movAbsInd 0x1234 0x5678) ∧
    decodeTableWord 40 0x7856341236 = some (.movIndInd 0x1234 0x5678) ∧
    decodeTableWord 32 0x56341237 = some (.movRegInd 0x12 0x3456) ∧
    decodeTableWord 24 0x341238 = some (.movImmReg 0x12 0x34) ∧
    decodeTableWord 32 0x56341239 = some (.movAbsReg 0x1234 0x56) ∧
    decodeTableWord 32 0x5634123A = some (.movIndReg 0x1234 0x56) ∧
    decodeTableWord 24 0x34123B = some (.movRegReg 0x12 0x34) := by decide

theorem test_decode_movx :
    decodeTableWord 40 0x7856341240 = some (.movxImmAbs 0x1234 0x5678) ∧
    decodeTableWord 40 0x7856341241 = some (.movxAbsAbs 0x1234 0x5678) ∧
    decodeTableWord 40 0x7856341242 = some (.movxIndAbs 0x1234 0x5678) ∧
    decodeTableWord 32 0x56341243 = some (.movxRegAbs 0x12 0x3456) ∧
    decodeTableWord 40 0x7856341244 = some (.movxImmInd 0x1234 0x5678) ∧
    decodeTableWord 40 0x7856341245 = some (.movxAbsInd 0x1234 0x5678) ∧
    decodeTableWord 40 0x7856341246 = some (.movxIndInd 0x1234 0x5678) ∧
    decodeTableWord 32 0x56341247 = some (.movxRegInd 0x12 0x3456) ∧
    decodeTableWord 32 0x56341248 = some (.movxImmReg 0x1234 0x56) ∧
    decodeTableWord 32 0x56341249 = some (.movxAbsReg 0x1234 0x56) ∧
    decodeTableWord 32 0x5634124A = some (.movxIndReg 0x1234 0x56) ∧
    decodeTableWord 24 0x34124B = some (.movxRegReg 0x12 0x34) := by decide

theorem test_decode_blank_cells :
    decodeTableWord 8 0x05 = none ∧ decodeTableWord 8 0x0F = none ∧ decodeTableWord 8 0x3C = none ∧
    decodeTableWord 8 0x3F = none ∧ decodeTableWord 8 0x4C = none ∧ decodeTableWord 8 0xFF = none := by decide

/-- Section 2.9: the first instruction of the stream and what follows it. `MOV #oper, @oper` is four bytes
(`90_conflicts.md` C1). -/
theorem test_stream_splits :
    decodeBytes Config.default [0x34, 0x5A, 0x30, 0x00, 0x01, 0x04] = .ok (.movImmInd 0x5A 0x3000, [0x01, 0x04]) ∧
    decodeBytes Config.default [0x31, 0x10, 0x00, 0x10] = .error .truncated ∧
    decodeBytes Config.default [0x50] = .error (.rejected (.illegalOpcode 0x50)) := by decide

theorem test_encode :
    encode Config.default (.movxRegInd 0x03 0x1234) = [0x47, 0x03, 0x12, 0x34] ∧
    encode Config.default (.movImmReg 0x05 0x04) = [0x38, 0x05, 0x04] ∧
    encode Config.default (.subxImm 0x0102) = [0x1C, 0x01, 0x02] := by decide

/-- Lines as sections 2.9 and 3 of `95_test_vectors.md` write them. -/
theorem test_asm :
    (Instr.movImmInd 0x5A 0x3000).asm Config.default = some "MOV #0x5A, @0x3000" ∧
    (Instr.addxImm 0x0100).asm Config.default = some "ADDX #0x0100" ∧
    (Instr.movAbsAbs 0x1000 0x1001).asm Config.default = some "MOV 0x1000, 0x1001" ∧
    (Instr.movxIndReg 0x1000 0x00).asm Config.default = some "MOVX @0x1000, AB" ∧
    Instr.hcf.asm Config.default = some "HCF" ∧ (Instr.swp 0x00 0x08).asm Config.default = none := by decide

/-- What the host asks: the step from reset runs the word placed where it fetches. -/
theorem test_fetch_word_runs :
    after (State.reset.withFetchWord 24 0x010014) (fun t => t.regs.b == 0x01 && t.pc == 0x0203) = true := by decide

theorem test_stopped_machine_stays_stopped :
    step { State.reset with run := .halted } = .fault .halted := rfl

/-! ## One step, from the spec's vectors -/

/-- V-NOP-1. -/
theorem test_nop :
    after { start 0x0200 [0x00] [] with
        regs := { zeros with a := 0x12 }
        flags := { clear with z := true, n := true, c := true, o := true, p := true, i := true } }
      (fun t => t.flags.z && t.flags.n && t.flags.c && t.flags.o && t.flags.p && t.flags.i &&
                t.pc == 0x0201) = true := by decide

/-- V-NOP-2. -/
theorem test_nop_second :
    after (start 0xFFFF [0x00] [])
      (fun t => t.pc == 0x0000) = true := by decide

/-- V-HCF-1. -/
theorem test_hcf :
    after { start 0x0200 [0x01] [] with
        regs := { zeros with a := 0x12 }
        flags := { clear with z := true, c := true } }
      (fun t => t.flags.z && !t.flags.n && t.flags.c && !t.flags.o && t.pc == 0x0201 && t.run == .halted) = true :=
  by decide

/-- V-HCF-2. -/
theorem test_hcf_second :
    after (start 0xFFFF [0x01] [])
      (fun t => t.pc == 0x0000 && t.run == .halted) = true := by decide

/-- V-PUSH-1. -/
theorem test_push :
    after { start 0x0200 [0x02] [] with regs := { zeros with a := 0x80 } }
      (fun t => t.mem.read 0x0100 == 0x80 && t.sp == 0x0100 && !t.flags.z && t.flags.n && t.pc == 0x0201) = true :=
  by decide

/-- V-PUSH-3. -/
theorem test_push_second :
    after { start 0x0200 [0x02] [] with regs := { zeros with a := 0x42 }, sp := 0xFFFF }
      (fun t => t.mem.read 0x0000 == 0x42 && t.sp == 0x0000 && !t.flags.z && !t.flags.n && t.pc == 0x0201) = true :=
  by decide

/-- V-POP-2. -/
theorem test_pop :
    after { start 0x0200 [0x03] [(0x0100, [0xF0])] with flags := { clear with o := true }, sp := 0x0100 }
      (fun t => t.regs.a == 0xF0 && t.sp == 0x00FF && !t.flags.z && t.flags.n && t.flags.o &&
                t.pc == 0x0201) = true := by decide

/-- V-POP-3. -/
theorem test_pop_second :
    after { start 0x0200 [0x03] [(0x0000, [0x07])] with sp := 0x0000 }
      (fun t => t.regs.a == 0x07 && t.sp == 0xFFFF && !t.flags.z && !t.flags.n && t.pc == 0x0201) = true := by decide

/-- V-SWP-2. -/
theorem test_swp :
    after { start 0x0200 [0x04, 0x01, 0x07] [] with
        regs := { zeros with b := 0x00, h := 0x90 }
        cfg := { Config.default with swpNz := .r1 } }
      (fun t => t.regs.b == 0x90 && t.regs.h == 0x00 && !t.flags.z && t.flags.n && t.pc == 0x0203) = true := by decide

/-- V-SWP-4. -/
theorem test_swp_second :
    after { start 0x0200 [0x04, 0x00, 0x01] [] with
        regs := { zeros with a := 0x12, b := 0x34 }
        flags := { clear with c := true, o := true } }
      (fun t => t.regs.a == 0x34 && t.regs.b == 0x12 && t.flags.c && t.flags.o && t.pc == 0x0203) = true := by decide

/-- V-ADD-1. -/
theorem test_addImm :
    after { start 0x0200 [0x10, 0x01] [] with regs := { zeros with a := 0x7F } }
      (fun t => t.regs.a == 0x80 && !t.flags.z && t.flags.n && !t.flags.c && t.flags.o && t.pc == 0x0202) = true :=
  by decide

/-- V-ADD-3. -/
theorem test_addImm_second :
    after { start 0x0200 [0x10, 0x80] [] with regs := { zeros with a := 0x80 } }
      (fun t => t.regs.a == 0x00 && t.flags.z && !t.flags.n && t.flags.c && t.flags.o && t.pc == 0x0202) = true :=
  by decide

/-- V-ADD-6. -/
theorem test_addAbs :
    after { start 0x0200 [0x11, 0x10, 0x00] [(0x1000, [0x22])] with regs := { zeros with a := 0x11 } }
      (fun t => t.regs.a == 0x33 && !t.flags.z && !t.flags.n && !t.flags.c && !t.flags.o && t.pc == 0x0203) = true :=
  by decide

/-- V-ADD-20. -/
theorem test_addInd :
    after { start 0x0200 [0x12, 0xFF, 0xFF] [(0xFFFF, [0x30]), (0x0000, [0x00]), (0x3000, [0x02])] with
        regs := { zeros with a := 0x01 } }
      (fun t => t.regs.a == 0x03 && !t.flags.z && !t.flags.n && !t.flags.c && !t.flags.o && t.pc == 0x0203) = true :=
  by decide

/-- V-ADD-9. -/
theorem test_addReg :
    after { start 0x0200 [0x13, 0x00] [] with regs := { zeros with a := 0x81 } }
      (fun t => t.regs.a == 0x02 && !t.flags.z && !t.flags.n && t.flags.c && t.flags.o && t.pc == 0x0202) = true :=
  by decide

/-- V-ADD-10. -/
theorem test_addReg_second :
    after { start 0x0200 [0x13, 0x08] [] with regs := { zeros with a := 0x05 } }
      (fun t => !t.flags.z && !t.flags.n && !t.flags.c && !t.flags.o && t.pc == 0x0200 &&
                t.run == .faulted (.illegalRegister 0x08) 0x0200) = true := by decide

/-- V-ADD-11. -/
theorem test_addxImm :
    after { start 0x0200 [0x14, 0x00, 0x01] [] with regs := { zeros with a := 0x00, b := 0xFF } }
      (fun t => t.regs.a == 0x01 && t.regs.b == 0x00 && !t.flags.z && !t.flags.n && !t.flags.c &&
                !t.flags.o && t.pc == 0x0203) = true := by decide

/-- V-ADD-19. -/
theorem test_addxAbs :
    after (start 0x0200 [0x15, 0xFF, 0xFF] [(0xFFFF, [0x12]), (0x0000, [0x34])])
      (fun t => t.regs.a == 0x12 && t.regs.b == 0x34 && !t.flags.z && !t.flags.n && !t.flags.c &&
                !t.flags.o && t.pc == 0x0203) = true := by decide

/-- V-ADD-14. -/
theorem test_addxInd :
    after { start 0x0200 [0x16, 0x10, 0x00] [(0x1000, [0x20, 0x00]), (0x2000, [0xFF, 0xFF])] with
        regs := { zeros with a := 0x00, b := 0x01 } }
      (fun t => t.regs.b == 0x00 && t.flags.z && !t.flags.n && t.flags.c && !t.flags.o && t.pc == 0x0203) = true :=
  by decide

/-- V-ADD-15. -/
theorem test_addxReg :
    after { start 0x0200 [0x17, 0x01] [] with regs := { zeros with a := 0x00, b := 0x01, c := 0x7F, d := 0xFF } }
      (fun t => t.regs.a == 0x80 && t.regs.b == 0x00 && !t.flags.z && t.flags.n && !t.flags.c &&
                t.flags.o && t.pc == 0x0202) = true := by decide

/-- V-ADD-17. -/
theorem test_addxReg_second :
    after { start 0x0200 [0x17, 0x04] [] with regs := { zeros with a := 0x00, b := 0x01, e := 0x11 } }
      (fun t => !t.flags.z && !t.flags.n && !t.flags.c && !t.flags.o && t.pc == 0x0200 &&
                t.run == .faulted (.illegalRegister 0x04) 0x0200) = true := by decide

/-- V-SUB-1. -/
theorem test_subImm :
    after { start 0x0200 [0x18, 0x01] [] with regs := { zeros with a := 0x00 } }
      (fun t => t.regs.a == 0xFF && !t.flags.z && t.flags.n && t.flags.c && !t.flags.o && t.pc == 0x0202) = true :=
  by decide

/-- V-SUB-4. -/
theorem test_subImm_second :
    after { start 0x0200 [0x18, 0xFF] [] with regs := { zeros with a := 0x7F } }
      (fun t => t.regs.a == 0x80 && !t.flags.z && t.flags.n && t.flags.c && t.flags.o && t.pc == 0x0202) = true :=
  by decide

/-- V-SUB-5. -/
theorem test_subAbs :
    after { start 0x0200 [0x19, 0x10, 0x00] [(0x1000, [0x10])] with regs := { zeros with a := 0x30 } }
      (fun t => t.regs.a == 0x20 && !t.flags.z && !t.flags.n && !t.flags.c && !t.flags.o && t.pc == 0x0203) = true :=
  by decide

/-- V-SUB-6. -/
theorem test_subInd :
    after { start 0x0200 [0x1A, 0x10, 0x00] [(0x1000, [0x20, 0x00]), (0x2000, [0x31])] with
        regs := { zeros with a := 0x30 } }
      (fun t => t.regs.a == 0xFF && !t.flags.z && t.flags.n && t.flags.c && !t.flags.o && t.pc == 0x0203) = true :=
  by decide

/-- V-SUB-7. -/
theorem test_subReg :
    after { start 0x0200 [0x1B, 0x07] [] with regs := { zeros with a := 0x09, h := 0x04 } }
      (fun t => t.regs.a == 0x05 && !t.flags.z && !t.flags.n && !t.flags.c && !t.flags.o && t.pc == 0x0202) = true :=
  by decide

/-- V-SUB-9. -/
theorem test_subxImm :
    after { start 0x0200 [0x1C, 0x00, 0x01] [] with regs := { zeros with a := 0x01, b := 0x00 } }
      (fun t => t.regs.a == 0x00 && t.regs.b == 0xFF && !t.flags.z && !t.flags.n && !t.flags.c &&
                !t.flags.o && t.pc == 0x0203) = true := by decide

/-- V-SUB-12. -/
theorem test_subxAbs :
    after { start 0x0200 [0x1D, 0x10, 0x00] [(0x1000, [0x12, 0x34])] with
        regs := { zeros with a := 0x23, b := 0x45 } }
      (fun t => t.regs.a == 0x11 && t.regs.b == 0x11 && !t.flags.z && !t.flags.n && !t.flags.c &&
                !t.flags.o && t.pc == 0x0203) = true := by decide

/-- V-SUB-13. -/
theorem test_subxInd :
    after { start 0x0200 [0x1E, 0x10, 0x00] [(0x1000, [0x20, 0x00]), (0x2000, [0x23, 0x45])] with
        regs := { zeros with a := 0x23, b := 0x45 } }
      (fun t => t.regs.a == 0x00 && t.regs.b == 0x00 && t.flags.z && !t.flags.n && !t.flags.c &&
                !t.flags.o && t.pc == 0x0203) = true := by decide

/-- V-SUB-14. -/
theorem test_subxReg :
    after { start 0x0200 [0x1F, 0x03] [] with regs := { zeros with a := 0x00, b := 0x01, g := 0x00, h := 0x02 } }
      (fun t => t.regs.a == 0xFF && t.regs.b == 0xFF && !t.flags.z && t.flags.n && t.flags.c &&
                !t.flags.o && t.pc == 0x0202) = true := by decide

/-- V-MUL-1. -/
theorem test_mulImm :
    after { start 0x0200 [0x20, 0x02] [] with regs := { zeros with a := 0x40, b := 0x55 } }
      (fun t => t.regs.a == 0x80 && t.regs.b == 0x55 && !t.flags.z && t.flags.n && !t.flags.c &&
                t.flags.o && t.pc == 0x0202) = true := by decide

/-- V-MUL-3. -/
theorem test_mulImm_second :
    after { start 0x0200 [0x20, 0xFF] [] with regs := { zeros with a := 0xFF } }
      (fun t => t.regs.a == 0x01 && !t.flags.z && !t.flags.n && t.flags.c && !t.flags.o && t.pc == 0x0202) = true :=
  by decide

/-- V-MUL-6. -/
theorem test_mulAbs :
    after { start 0x0200 [0x21, 0x10, 0x00] [(0x1000, [0x06])] with regs := { zeros with a := 0x07 } }
      (fun t => t.regs.a == 0x2A && !t.flags.z && !t.flags.n && !t.flags.c && !t.flags.o && t.pc == 0x0203) = true :=
  by decide

/-- V-MUL-7. -/
theorem test_mulInd :
    after { start 0x0200 [0x22, 0x10, 0x00] [(0x1000, [0x20, 0x00]), (0x2000, [0x03])] with
        regs := { zeros with a := 0x07 } }
      (fun t => t.regs.a == 0x15 && !t.flags.z && !t.flags.n && !t.flags.c && !t.flags.o && t.pc == 0x0203) = true :=
  by decide

/-- V-MUL-8. -/
theorem test_mulReg :
    after { start 0x0200 [0x23, 0x00] [] with regs := { zeros with a := 0x0C } }
      (fun t => t.regs.a == 0x90 && !t.flags.z && t.flags.n && !t.flags.c && t.flags.o && t.pc == 0x0202) = true :=
  by decide

/-- V-MUL-9. -/
theorem test_mulxImm :
    after { start 0x0200 [0x24, 0x01, 0x00] [] with
        regs := { zeros with a := 0x01, b := 0x23, c := 0x55, d := 0x55 } }
      (fun t => t.regs.a == 0x23 && t.regs.b == 0x00 && t.regs.c == 0x55 && t.regs.d == 0x55 &&
                !t.flags.z && !t.flags.n && t.flags.c && t.flags.o && t.pc == 0x0203) = true := by decide

/-- V-MUL-12. -/
theorem test_mulxAbs :
    after { start 0x0200 [0x25, 0x10, 0x00] [(0x1000, [0x01, 0x00])] with
        regs := { zeros with a := 0x00, b := 0x03 } }
      (fun t => t.regs.a == 0x03 && t.regs.b == 0x00 && !t.flags.z && !t.flags.n && !t.flags.c &&
                !t.flags.o && t.pc == 0x0203) = true := by decide

/-- V-MUL-13. -/
theorem test_mulxInd :
    after { start 0x0200 [0x26, 0x10, 0x00] [(0x1000, [0x20, 0x00]), (0x2000, [0x00, 0x05])] with
        regs := { zeros with a := 0x00, b := 0x03 } }
      (fun t => t.regs.b == 0x0F && !t.flags.z && !t.flags.n && !t.flags.c && !t.flags.o && t.pc == 0x0203) = true :=
  by decide

/-- V-MUL-14. -/
theorem test_mulxReg :
    after { start 0x0200 [0x27, 0x02] [] with regs := { zeros with a := 0x00, b := 0x10, e := 0x00, f := 0x10 } }
      (fun t => t.regs.a == 0x01 && t.regs.b == 0x00 && !t.flags.z && !t.flags.n && !t.flags.c &&
                !t.flags.o && t.pc == 0x0202) = true := by decide

/-- V-DIV-1. -/
theorem test_divImm :
    after { start 0x0200 [0x28, 0x03] [] with
        regs := { zeros with a := 0x0A, b := 0x77 }
        flags := { clear with c := true, o := true } }
      (fun t => t.regs.a == 0x03 && t.regs.b == 0x01 && !t.flags.z && !t.flags.n && !t.flags.c &&
                !t.flags.o && t.pc == 0x0202) = true := by decide

/-- V-DIV-4. -/
theorem test_divImm_second :
    after { start 0x0200 [0x28, 0xFF] [] with regs := { zeros with a := 0xFE } }
      (fun t => t.regs.a == 0x00 && t.regs.b == 0xFE && t.flags.z && !t.flags.n && !t.flags.c &&
                !t.flags.o && t.pc == 0x0202) = true := by decide

/-- V-DIV-6. -/
theorem test_divAbs :
    after { start 0x0200 [0x29, 0x10, 0x00] [(0x1000, [0x0A])] with regs := { zeros with a := 0x64 } }
      (fun t => t.regs.a == 0x0A && !t.flags.z && !t.flags.n && !t.flags.c && !t.flags.o && t.pc == 0x0203) = true :=
  by decide

/-- V-DIV-7. -/
theorem test_divInd :
    after { start 0x0200 [0x2A, 0x10, 0x00] [(0x1000, [0x20, 0x00]), (0x2000, [0x07])] with
        regs := { zeros with a := 0x64 } }
      (fun t => t.regs.a == 0x0E && t.regs.b == 0x02 && !t.flags.z && !t.flags.n && !t.flags.c &&
                !t.flags.o && t.pc == 0x0203) = true := by decide

/-- V-DIV-8. -/
theorem test_divReg :
    after { start 0x0200 [0x2B, 0x01] [] with regs := { zeros with a := 0x64, b := 0x07 } }
      (fun t => t.regs.a == 0x0E && t.regs.b == 0x02 && !t.flags.z && !t.flags.n && !t.flags.c &&
                !t.flags.o && t.pc == 0x0202) = true := by decide

/-- V-DIV-11. -/
theorem test_divReg_second :
    after { start 0x0200 [0x2B, 0x09] [] with regs := { zeros with a := 0x09 } }
      (fun t => !t.flags.z && !t.flags.n && !t.flags.c && !t.flags.o && t.pc == 0x0200 &&
                t.run == .faulted (.illegalRegister 0x09) 0x0200) = true := by decide

/-- V-DIV-13. -/
theorem test_divxImm :
    after { start 0x0200 [0x2C, 0x01, 0x00] [] with regs := { zeros with a := 0x12, b := 0x34 } }
      (fun t => t.regs.a == 0x00 && t.regs.b == 0x12 && t.regs.d == 0x34 && !t.flags.z && !t.flags.n &&
                !t.flags.c && !t.flags.o && t.pc == 0x0203) = true := by decide

/-- V-DIV-19. -/
theorem test_divxImm_second :
    after { start 0x0200 [0x2C, 0x00, 0x00] [] with regs := { zeros with a := 0x12, b := 0x34 } }
      (fun t => !t.flags.z && !t.flags.n && !t.flags.c && !t.flags.o && t.pc == 0x0200 &&
                t.run == .faulted .divideByZero 0x0200) = true := by decide

/-- V-DIV-14. -/
theorem test_divxAbs :
    after { start 0x0200 [0x2D, 0x10, 0x00] [(0x1000, [0x00, 0x02])] with
        regs := { zeros with a := 0xFF, b := 0xFF } }
      (fun t => t.regs.a == 0x7F && t.regs.d == 0x01 && !t.flags.z && !t.flags.n && !t.flags.c &&
                !t.flags.o && t.pc == 0x0203) = true := by decide

/-- V-DIV-15. -/
theorem test_divxInd :
    after { start 0x0200 [0x2E, 0x10, 0x00] [(0x1000, [0x20, 0x00]), (0x2000, [0x00, 0x01])] with
        regs := { zeros with a := 0x80, b := 0x00 } }
      (fun t => !t.flags.z && t.flags.n && !t.flags.c && !t.flags.o && t.pc == 0x0203) = true := by decide

/-- V-DIV-16. -/
theorem test_divxReg :
    after { start 0x0200 [0x2F, 0x01] [] with regs := { zeros with a := 0xFF, b := 0xFF, c := 0x01, d := 0x00 } }
      (fun t => t.regs.a == 0x00 && t.regs.c == 0x00 && t.regs.d == 0xFF && !t.flags.z && !t.flags.n &&
                !t.flags.c && !t.flags.o && t.pc == 0x0202) = true := by decide

/-- V-MOV-1. -/
theorem test_movImmAbs :
    after { start 0x0200 [0x30, 0x5A, 0x40, 0x00] [] with flags := { clear with c := true, o := true } }
      (fun t => t.mem.read 0x4000 == 0x5A && !t.flags.z && !t.flags.n && t.flags.c && t.flags.o &&
                t.pc == 0x0204) = true := by decide

/-- V-MOV-16. -/
theorem test_movImmAbs_second :
    after (start 0x0200 [0x30, 0x77, 0x02, 0x02] [])
      (fun t => t.mem.read 0x0202 == 0x77 && !t.flags.z && !t.flags.n && !t.flags.c && !t.flags.o &&
                t.pc == 0x0204) = true := by decide

/-- V-MOV-2. -/
theorem test_movAbsAbs :
    after (start 0x0200 [0x31, 0x10, 0x00, 0x40, 0x00] [(0x1000, [0x80])])
      (fun t => t.mem.read 0x4000 == 0x80 && !t.flags.z && t.flags.n && !t.flags.c && !t.flags.o &&
                t.pc == 0x0205) = true := by decide

/-- V-MOV-3. -/
theorem test_movIndAbs :
    after (start 0x0200 [0x32, 0x10, 0x00, 0x40, 0x00] [(0x1000, [0x20, 0x00]), (0x2000, [0x33])])
      (fun t => t.mem.read 0x4000 == 0x33 && !t.flags.z && !t.flags.n && !t.flags.c && !t.flags.o &&
                t.pc == 0x0205) = true := by decide

/-- V-MOV-4. -/
theorem test_movRegAbs :
    after { start 0x0200 [0x33, 0x06, 0x40, 0x00] [] with regs := { zeros with g := 0x7F } }
      (fun t => t.mem.read 0x4000 == 0x7F && !t.flags.z && !t.flags.n && !t.flags.c && !t.flags.o &&
                t.pc == 0x0204) = true := by decide

/-- V-MOV-5. -/
theorem test_movImmInd :
    after (start 0x0200 [0x34, 0x5A, 0x30, 0x00] [(0x3000, [0x40, 0x00])])
      (fun t => t.mem.read 0x4000 == 0x5A && !t.flags.z && !t.flags.n && !t.flags.c && !t.flags.o &&
                t.pc == 0x0204) = true := by decide

/-- V-MOV-6. -/
theorem test_movAbsInd :
    after (start 0x0200 [0x35, 0x10, 0x00, 0x30, 0x00] [(0x1000, [0x44]), (0x3000, [0x40, 0x00])])
      (fun t => t.mem.read 0x4000 == 0x44 && !t.flags.z && !t.flags.n && !t.flags.c && !t.flags.o &&
                t.pc == 0x0205) = true := by decide

/-- V-MOV-7. -/
theorem test_movIndInd :
    after { start 0x0200 [0x36, 0x10, 0x00, 0x30, 0x00] [
          (0x1000, [0x20, 0x00]), (0x2000, [0x00]), (0x3000, [0x40, 0x00]), (0x4000, [0xEE])] with
        flags := { clear with n := true } }
      (fun t => t.mem.read 0x4000 == 0x00 && t.flags.z && !t.flags.n && !t.flags.c && !t.flags.o &&
                t.pc == 0x0205) = true := by decide

/-- V-MOV-8. -/
theorem test_movRegInd :
    after { start 0x0200 [0x37, 0x06, 0x30, 0x00] [(0x3000, [0x40, 0x00])] with regs := { zeros with g := 0x99 } }
      (fun t => t.mem.read 0x4000 == 0x99 && !t.flags.z && t.flags.n && !t.flags.c && !t.flags.o &&
                t.pc == 0x0204) = true := by decide

/-- V-MOV-9. -/
theorem test_movImmReg :
    after (start 0x0200 [0x38, 0x05, 0x04] [])
      (fun t => t.regs.e == 0x05 && !t.flags.z && !t.flags.n && !t.flags.c && !t.flags.o && t.pc == 0x0203) = true :=
  by decide

/-- V-MOV-10. -/
theorem test_movAbsReg :
    after (start 0x0200 [0x39, 0x10, 0x00, 0x04] [(0x1000, [0xFE])])
      (fun t => t.regs.e == 0xFE && !t.flags.z && t.flags.n && !t.flags.c && !t.flags.o && t.pc == 0x0204) = true :=
  by decide

/-- V-MOV-11. -/
theorem test_movIndReg :
    after (start 0x0200 [0x3A, 0x10, 0x00, 0x04] [(0x1000, [0x20, 0x00]), (0x2000, [0x21])])
      (fun t => t.regs.e == 0x21 && !t.flags.z && !t.flags.n && !t.flags.c && !t.flags.o && t.pc == 0x0204) = true :=
  by decide

/-- V-MOV-12. -/
theorem test_movRegReg :
    after { start 0x0200 [0x3B, 0x06, 0x04] [] with regs := { zeros with g := 0x80 } }
      (fun t => t.regs.e == 0x80 && !t.flags.z && t.flags.n && !t.flags.c && !t.flags.o && t.pc == 0x0203) = true :=
  by decide

/-- V-MOV-15. -/
theorem test_movRegReg_second :
    after (start 0x0200 [0x3B, 0x09, 0x0A] [])
      (fun t => !t.flags.z && !t.flags.n && !t.flags.c && !t.flags.o && t.pc == 0x0200 &&
                t.run == .faulted (.illegalRegister 0x09) 0x0200) = true := by decide

/-- V-MOVX-1. -/
theorem test_movxImmAbs :
    after (start 0x0200 [0x40, 0x12, 0x34, 0x40, 0x00] [])
      (fun t => t.mem.read 0x4000 == 0x12 && t.mem.read 0x4001 == 0x34 && !t.flags.z && !t.flags.n &&
                !t.flags.c && !t.flags.o && t.pc == 0x0205) = true := by decide

/-- V-MOVX-15. -/
theorem test_movxImmAbs_second :
    after (start 0x0200 [0x40, 0x12, 0x34, 0xFF, 0xFF] [])
      (fun t => t.mem.read 0x0000 == 0x34 && t.mem.read 0xFFFF == 0x12 && !t.flags.z && !t.flags.n &&
                !t.flags.c && !t.flags.o && t.pc == 0x0205) = true := by decide

/-- V-MOVX-2. -/
theorem test_movxAbsAbs :
    after (start 0x0200 [0x41, 0x10, 0x00, 0x40, 0x00] [(0x1000, [0x80, 0x00])])
      (fun t => t.mem.read 0x4000 == 0x80 && !t.flags.z && t.flags.n && !t.flags.c && !t.flags.o &&
                t.pc == 0x0205) = true := by decide

/-- V-MOVX-13. -/
theorem test_movxAbsAbs_second :
    after (start 0x0200 [0x41, 0x10, 0x00, 0x10, 0x01] [(0x1000, [0xAA, 0xBB, 0xCC])])
      (fun t => t.mem.read 0x1001 == 0xAA && t.mem.read 0x1002 == 0xBB && !t.flags.z && t.flags.n &&
                !t.flags.c && !t.flags.o && t.pc == 0x0205) = true := by decide

/-- V-MOVX-3. -/
theorem test_movxIndAbs :
    after (start 0x0200 [0x42, 0x10, 0x00, 0x40, 0x00] [(0x1000, [0x20, 0x00]), (0x2000, [0x00, 0x01])])
      (fun t => t.mem.read 0x4001 == 0x01 && !t.flags.z && !t.flags.n && !t.flags.c && !t.flags.o &&
                t.pc == 0x0205) = true := by decide

/-- V-MOVX-4. -/
theorem test_movxRegAbs :
    after { start 0x0200 [0x43, 0x03, 0x40, 0x00] [] with regs := { zeros with g := 0xBE, h := 0xEF } }
      (fun t => t.mem.read 0x4000 == 0xBE && t.mem.read 0x4001 == 0xEF && !t.flags.z && t.flags.n &&
                !t.flags.c && !t.flags.o && t.pc == 0x0204) = true := by decide

/-- V-MOVX-5. -/
theorem test_movxImmInd :
    after (start 0x0200 [0x44, 0x12, 0x34, 0x30, 0x00] [(0x3000, [0x40, 0x00])])
      (fun t => t.mem.read 0x4000 == 0x12 && t.mem.read 0x4001 == 0x34 && !t.flags.z && !t.flags.n &&
                !t.flags.c && !t.flags.o && t.pc == 0x0205) = true := by decide

/-- V-MOVX-6. -/
theorem test_movxAbsInd :
    after (start 0x0200 [0x45, 0x10, 0x00, 0x30, 0x00] [(0x1000, [0xAB, 0xCD]), (0x3000, [0x40, 0x00])])
      (fun t => t.mem.read 0x4000 == 0xAB && t.mem.read 0x4001 == 0xCD && !t.flags.z && t.flags.n &&
                !t.flags.c && !t.flags.o && t.pc == 0x0205) = true := by decide

/-- V-MOVX-7. -/
theorem test_movxIndInd :
    after (start 0x0200 [0x46, 0x10, 0x00, 0x30, 0x00]
      [(0x1000, [0x20, 0x00]), (0x2000, [0x00, 0x00]), (0x3000, [0x40, 0x00]), (0x4000, [0xEE, 0xEE])])
      (fun t => t.mem.read 0x4000 == 0x00 && t.mem.read 0x4001 == 0x00 && t.flags.z && !t.flags.n &&
                !t.flags.c && !t.flags.o && t.pc == 0x0205) = true := by decide

/-- V-MOVX-8. -/
theorem test_movxRegInd :
    after { start 0x0200 [0x47, 0x03, 0x30, 0x00] [(0x3000, [0x40, 0x00])] with
        regs := { zeros with g := 0x12, h := 0x34 } }
      (fun t => t.mem.read 0x4000 == 0x12 && t.mem.read 0x4001 == 0x34 && !t.flags.z && !t.flags.n &&
                !t.flags.c && !t.flags.o && t.pc == 0x0204) = true := by decide

/-- V-MOVX-17. -/
theorem test_movxRegInd_second :
    after { start 0x0200 [0x47, 0x00, 0x30, 0x00] [(0x3000, [0x30, 0x00])] with
        regs := { zeros with a := 0x12, b := 0x34 } }
      (fun t => t.mem.read 0x3000 == 0x12 && t.mem.read 0x3001 == 0x34 && !t.flags.z && !t.flags.n &&
                !t.flags.c && !t.flags.o && t.pc == 0x0204) = true := by decide

/-- V-MOVX-9. -/
theorem test_movxImmReg :
    after (start 0x0200 [0x48, 0x12, 0x34, 0x02] [])
      (fun t => t.regs.e == 0x12 && t.regs.f == 0x34 && !t.flags.z && !t.flags.n && !t.flags.c &&
                !t.flags.o && t.pc == 0x0204) = true := by decide

/-- V-MOVX-10. -/
theorem test_movxAbsReg :
    after (start 0x0200 [0x49, 0x10, 0x00, 0x02] [(0x1000, [0xFF, 0x00])])
      (fun t => t.regs.e == 0xFF && !t.flags.z && t.flags.n && !t.flags.c && !t.flags.o && t.pc == 0x0204) = true :=
  by decide

/-- V-MOVX-11. -/
theorem test_movxIndReg :
    after (start 0x0200 [0x4A, 0x10, 0x00, 0x02] [(0x1000, [0x20, 0x00]), (0x2000, [0x00, 0x80])])
      (fun t => t.regs.f == 0x80 && !t.flags.z && !t.flags.n && !t.flags.c && !t.flags.o && t.pc == 0x0204) = true :=
  by decide

/-- V-MOVX-12. -/
theorem test_movxRegReg :
    after { start 0x0200 [0x4B, 0x03, 0x02] [] with regs := { zeros with g := 0x80, h := 0x01 } }
      (fun t => t.regs.e == 0x80 && t.regs.f == 0x01 && !t.flags.z && t.flags.n && !t.flags.c &&
                !t.flags.o && t.pc == 0x0203) = true := by decide

/-- V-ILL-05. -/
theorem test_illegal :
    after { start 0x0200 [0x05] [] with regs := { zeros with a := 0x12 }, flags := { clear with z := true } }
      (fun t => t.flags.z && t.pc == 0x0200 && t.run == .faulted (.illegalOpcode 0x05) 0x0200) = true := by decide

/-- V-ILL-FF. -/
theorem test_illegal_second :
    after { start 0x0200 [0xFF] [] with regs := { zeros with a := 0x12 }, flags := { clear with z := true } }
      (fun t => t.flags.z && t.pc == 0x0200 && t.run == .faulted (.illegalOpcode 0xFF) 0x0200) = true := by decide

/-! ## Witnesses: states and operands that meet the hypotheses of each statement -/

/-- A state in which 0x22 (0x2233 as a word) is what every source form can reach, with divisible A and AB. -/
def sample : State :=
  { start 0x0200 [] [(0x1000, [0x20, 0x00]), (0x2000, [0x22, 0x33])] with
    regs := ⟨0x64, 0x10, 0x22, 0x33, 0x22, 0x00, 0x00, 0x00⟩ }

/-- What the source forms of an 8-bit statement ask of a state. -/
def Sources8 (s : State) (v : Byte) : Prop :=
  s.AllRam ∧ (∃ a, s.mem.read a = v) ∧ (∃ a, s.mem.read (s.mem.read16 a) = v) ∧
    ∃ b r, s.cfg.reg8 b = some r ∧ s.regs.get r = v

/-- What the source forms of a 16-bit statement ask of a state. -/
def Sources16 (s : State) (v : Word) : Prop :=
  s.AllRam ∧ (∃ a, s.mem.read16 a = v) ∧ (∃ a, s.mem.read16 (s.mem.read16 a) = v) ∧
    ∃ b r, s.cfg.reg16 b = some r ∧ s.regs.getPair r = v

theorem sample_sources8 : Sources8 sample 0x22 :=
  ⟨fun _ => rfl, ⟨0x2000, rfl⟩, ⟨0x1000, rfl⟩, 0x04, .e, rfl, rfl⟩

theorem sample_sources16 : Sources16 sample 0x2233 :=
  ⟨fun _ => rfl, ⟨0x2000, rfl⟩, ⟨0x1000, rfl⟩, 0x01, .cd, rfl, rfl⟩

theorem witness_DecodeInvertsEncode : Config.default.wf = true := by decide

theorem witness_EncodeInvertsDecode :
    Config.default.wf = true ∧ decodeBytes Config.default [0x10, 0x01, 0xFF] = .ok (.addImm 0x01, [0xFF]) := by decide

theorem witness_OpcodeByteAloneSelects :
    decode Config.default (fun _ => 0x10) = .ok (.addImm 0x10) ∧
    (fun _ => (0x10 : Byte)) 0 = (fun k => if k = 0 then (0x10 : Byte) else 0x20) 0 := by decide

theorem witness_OperandsStandHighByteFirst :
    decode Config.default (fun k => BitVec.ofNat 8 (0x41 + k)) = .ok (.movxAbsAbs 0x4243 0x4445) := by decide

theorem witness_OpcodeMapCells : Config.default.wf = true := by decide

theorem witness_LengthFromOpcodeByte : decode Config.default (fun _ => 0x34) = .ok (.movImmInd 0x34 0x3434) := by decide

theorem witness_StepRunsDecodedInstruction :
    (start 0xFFFF [0x14, 0x12, 0x34] []).run = .running ∧
    decode Config.default (start 0xFFFF [0x14, 0x12, 0x34] []).fetchByte = .ok (.addxImm 0x1234) ∧
    ∀ k, k < 3 → (start 0xFFFF [0x14, 0x12, 0x34] []).cfg.kindAt (0xFFFF + BitVec.ofNat 16 k) = .ram :=
  ⟨rfl, rfl, fun _ _ => rfl⟩

theorem witness_StepRunsEncodedInstruction :
    State.reset.run = .running ∧ State.reset.cfg.wf = true ∧ State.reset.AllRam ∧
    ∀ k, k < Instr.nop.length →
      State.reset.mem.read (State.reset.pc + BitVec.ofNat 16 k) = (encode State.reset.cfg .nop).getD k 0 :=
  ⟨rfl, by decide, fun _ => rfl, fun k h => by cases k with
    | zero => rfl
    | succ k => exact absurd h (by simp [Instr.length, Opcode.length, Instr.opcode, Opcode.shape, Shape.length])⟩

theorem witness_StoppedMachineHasNoStep :
    State.reset.halt.run ≠ .running ∧ (State.reset.takeFault .divideByZero).run ≠ .running := by decide

/-- The first and the last blank cell of each of the three ranges. -/
theorem witness_BlankOpcodeFaults :
    ∀ b ∈ [(0x05 : Byte), 0x0F, 0x3C, 0x3F, 0x4C, 0xFF],
      (start 0x0200 [b] []).run = .running ∧ (start 0x0200 [b] []).cfg.kindAt 0x0200 = .ram ∧
      (start 0x0200 [b] []).mem.read 0x0200 = b ∧
      ((0x05 ≤ b.toNat ∧ b.toNat ≤ 0x0F) ∨ (0x3C ≤ b.toNat ∧ b.toNat ≤ 0x3F) ∨ 0x4C ≤ b.toNat) := by decide

/-- As far as a run of one step more than memory holds. -/
theorem witness_NopChangesOnlyPc :
    State.reset.run = .running ∧ ∀ k, k < 65537 →
      State.reset.cfg.kindAt (State.reset.pc + BitVec.ofNat 16 k) = .ram ∧
      State.reset.mem.read (State.reset.pc + BitVec.ofNat 16 k) = 0x00 := ⟨rfl, fun _ _ => ⟨rfl, rfl⟩⟩

/-- P4 of the spec's programs: four steps, the last an HCF that the first stored. -/
theorem witness_GoodEndIsFinal :
    ∃ t, EndsWell 4 (start 0x0200 [0x30, 0x01, 0x02, 0x06, 0x00, 0x00, 0xFF] []) t := ⟨_, rfl, rfl⟩

theorem witness_AddFormsComplete : sample.cfg.flagsArith = .formulas ∧ Sources8 sample 0x22 := ⟨rfl, sample_sources8⟩

theorem witness_AddxFormsComplete :
    sample.regs.getPair .ab = 0x6410 ∧ sample.cfg.flagsArith = .formulas ∧ Sources16 sample 0x2233 :=
  ⟨rfl, rfl, sample_sources16⟩

theorem witness_SubFormsComplete : sample.cfg.flagsArith = .formulas ∧ Sources8 sample 0x22 := ⟨rfl, sample_sources8⟩

theorem witness_SubxFormsComplete :
    sample.regs.getPair .ab = 0x6410 ∧ sample.cfg.flagsArith = .formulas ∧ Sources16 sample 0x2233 :=
  ⟨rfl, rfl, sample_sources16⟩

theorem witness_MulFormsComplete : sample.cfg.flagsArith = .formulas ∧ Sources8 sample 0x22 := ⟨rfl, sample_sources8⟩

theorem witness_MulxFormsComplete :
    sample.regs.getPair .ab = 0x6410 ∧ sample.cfg.flagsArith = .formulas ∧ Sources16 sample 0x2233 :=
  ⟨rfl, rfl, sample_sources16⟩

theorem witness_DivFormsComplete :
    sample.cfg.divSigned = false ∧
    sample.regs.a.toNat = (0x02 : Byte).toNat * (0x22 : Byte).toNat + (0x20 : Byte).toNat ∧
    (0x20 : Byte).toNat < (0x22 : Byte).toNat ∧ sample.cfg.flagsArith = .formulas ∧ Sources8 sample 0x22 :=
  ⟨rfl, rfl, by decide, rfl, sample_sources8⟩

theorem witness_DivxFormsComplete :
    sample.cfg.divSigned = false ∧
    (sample.regs.getPair .ab).toNat = (0x0002 : Word).toNat * (0x2233 : Word).toNat + (0x1FAA : Word).toNat ∧
    (0x1FAA : Word).toNat < (0x2233 : Word).toNat ∧ sample.cfg.flagsArith = .formulas ∧ Sources16 sample 0x2233 :=
  ⟨rfl, rfl, by decide, rfl, sample_sources16⟩

theorem witness_ZeroDivisorFaults :
    State.reset.cfg.divSigned = false ∧ Sources8 State.reset 0 ∧ Sources16 State.reset 0 :=
  ⟨rfl, ⟨fun _ => rfl, ⟨0xFFFF, rfl⟩, ⟨0xFFFF, rfl⟩, 0x07, .h, rfl, rfl⟩,
    ⟨fun _ => rfl, ⟨0xFFFF, rfl⟩, ⟨0xFFFF, rfl⟩, 0x03, .gh, rfl, rfl⟩⟩

/-- The default parameters with `DIV_SIGNED` true. -/
def signedState : State := { State.reset with cfg := { Config.default with divSigned := true } }

theorem witness_SignedDivisionRefused :
    signedState.cfg.divSigned = true ∧ signedState.AllRam ∧
    ∀ i ∈ [Instr.divImm 0x00, .divReg 0x07, .divxAbs 0xFFFF, .divxReg 0x03],
      i.wf signedState.cfg = true ∧ ∃ w m, i.opcode = .alu .div w m := by
  refine ⟨rfl, fun _ => rfl, fun i h => ?_⟩
  simp only [List.mem_cons, List.not_mem_nil, or_false] at h
  rcases h with rfl | rfl | rfl | rfl <;> exact ⟨rfl, _, _, rfl⟩

/-- The first and the last unmapped byte of each width. -/
theorem witness_UnmappedArithRegisterFaults :
    (∃ t : State, t = { State.reset with run := .faulted (.illegalRegister 0x08) 0x0200 }) ∧
    Config.default.reg8 0x08 = none ∧ Config.default.reg8 0xFF = none ∧
    Config.default.reg16 0x04 = none ∧ Config.default.reg16 0xFF = none := ⟨⟨_, rfl⟩, rfl, rfl, rfl, rfl⟩

theorem witness_MovToMemoryCompletes : sample.AllRam ∧ Sources8 sample 0x22 := ⟨fun _ => rfl, sample_sources8⟩

theorem witness_MovToRegisterCompletes :
    sample.cfg.reg8 0x07 = some .h ∧
    (∀ q, (sample.regs.set .h 0x22).get q = if q = .h then 0x22 else sample.regs.get q) ∧ Sources8 sample 0x22 :=
  ⟨rfl, fun q => by cases q <;> rfl, sample_sources8⟩

theorem witness_MovxToMemoryCompletes :
    sample.AllRam ∧ catBytes (sample.mem.read 0x1000) (sample.mem.read 0x1001) = 0x2000 ∧ Sources16 sample 0x2233 :=
  ⟨fun _ => rfl, rfl, sample_sources16⟩

theorem witness_MovxToPairCompletes :
    sample.cfg.reg16 0x03 = some .gh ∧
    (∀ q, (sample.regs.setPair .gh 0x2233).get q =
      if q = pairHigh .gh then hiByte 0x2233 else if q = pairLow .gh then loByte 0x2233 else sample.regs.get q) ∧
    Sources16 sample 0x2233 := ⟨rfl, fun q => by cases q <;> rfl, sample_sources16⟩

/-- The first unmapped byte and the last mapped one of each width. -/
theorem witness_UnmappedMoveRegisterFaults :
    (∃ fault : Byte → State, ∀ b, fault b = { State.reset with run := .faulted (.illegalRegister b) State.reset.pc }) ∧
    State.reset.cfg.reg8 0x08 = none ∧
    (State.reset.cfg.reg8 0x07 ≠ none ∧ State.reset.cfg.reg8 0x08 = none) ∧ State.reset.cfg.reg16 0x04 = none ∧
    (State.reset.cfg.reg16 0x03 ≠ none ∧ State.reset.cfg.reg16 0x04 = none) :=
  ⟨⟨fun _ => _, fun _ => rfl⟩, rfl, by decide, rfl, by decide⟩

/-- Each form: overlapping, across the end of memory, and over the bytes of the pointer itself. -/
theorem witness_MovxCopiesOverlappingBytes :
    (∃ t, exec (.movxAbsAbs 0x2000 0x2001) sample = .next t) ∧
    (∃ t, exec (.movxAbsAbs 0xFFFF 0xFFFE) sample = .next t) ∧
    (catBytes (sample.mem.read 0x1000) (sample.mem.read 0x1001) = 0x2000 ∧
      (∃ t, exec (.movxIndAbs 0x1000 0x2001) sample = .next t) ∧
      (∃ t, exec (.movxAbsInd 0x1FFF 0x1000) sample = .next t) ∧
      ∃ t, exec (.movxIndInd 0x1000 0x1000) sample = .next t) :=
  ⟨⟨_, rfl⟩, ⟨_, rfl⟩, rfl, ⟨_, rfl⟩, ⟨_, rfl⟩, _, rfl⟩

/-- Two registers and the same one twice, and each value of `SWP_NZ`. -/
theorem witness_SwpCompletes :
    sample.cfg.reg8 0x00 = some .a ∧ sample.cfg.reg8 0x07 = some .h ∧ sample.cfg.swpNz = .any ∧
    { sample.cfg with swpNz := .r1 }.swpNz = .r1 ∧ { sample.cfg with swpNz := .r2 }.swpNz = .r2 := by decide

theorem witness_PushCompletes : { sample with sp := 0xFFFF }.cfg.kindAt (0xFFFF + 1) = .ram := rfl

theorem witness_PopCompletes :
    { sample with sp := 0x0000 }.cfg.kindAt 0x0000 = .ram ∧ { sample with sp := 0x0000 }.mem.read 0x0000 = 0x00 :=
  ⟨rfl, rfl⟩

theorem witness_PopUndoesPush : sample.AllRam := fun _ => rfl

theorem witness_SwpTwiceRestores : (Instr.swp 0x00 0x07).wf sample.cfg = true := by decide

/-- The divisor in the register that receives the remainder. -/
theorem witness_DivisionIdentity :
    (sample.cfg.reg8 0x01 = some .b ∧ sample.regs.get .b ≠ 0 ∧ ∃ t, exec (.divReg 0x01) sample = .next t) ∧
    (sample.cfg.reg16 0x01 = some .cd ∧ sample.regs.getPair .cd ≠ 0 ∧ ∃ t, exec (.divxReg 0x01) sample = .next t) :=
  ⟨⟨rfl, by decide, _, rfl⟩, rfl, by decide, _, rfl⟩

theorem witness_EveryInstructionAnswersNext : sample.AllRam ∧ sample.cfg.divSigned = false := ⟨fun _ => rfl, rfl⟩

theorem witness_FaultChangesOnlyRunState :
    ∃ t, step (start 0x0200 [0x28, 0x00] []) = .next t ∧ t.run = .faulted .divideByZero 0x0200 := ⟨_, rfl, rfl⟩

theorem witness_PcAdvancesByLength :
    (∃ t, exec .hcf sample = .next t) ∧ (∃ t, exec (.addImm 0x01) sample = .next t) ∧
    ∃ t, exec (.addReg 0x08) sample = .next t := ⟨⟨_, rfl⟩, ⟨_, rfl⟩, _, rfl⟩

theorem witness_OnlyHcfHalts :
    (∃ t, step (start 0xFFFF [0x01] []) = .next t ∧ t.run = .halted) ∧ ∃ t, step State.reset = .next t :=
  ⟨⟨_, rfl, rfl⟩, _, rfl⟩

theorem witness_StepKeepsParityInterruptAndParameters :
    ∃ t, step { start 0x0200 [0x10, 0x01] [] with flags := { clear with p := true, i := true } } = .next t := ⟨_, rfl⟩

theorem witness_FlagMasksHold :
    (writesCO (Instr.movImmReg 0x00 0x00).opcode = false ∧ ∃ t, exec (.movImmReg 0x00 0x00) sample = .next t) ∧
    (writesNZ Instr.hcf.opcode = false ∧ ∃ t, exec .hcf sample = .next t) := ⟨⟨rfl, _, rfl⟩, rfl, _, rfl⟩

theorem witness_OnlyPushAndPopMoveSp :
    (∃ t, exec (.swp 0x00 0x07) sample = .next t) ∧ Instr.swp 0x00 0x07 ≠ .push ∧ Instr.swp 0x00 0x07 ≠ .pop :=
  ⟨⟨_, rfl⟩, by decide, by decide⟩

theorem witness_RegisterFrame :
    (∃ t, exec (.divxImm 0x0001) sample = .next t) ∧ Reg8.e ∉ registersWritten sample.cfg (.divxImm 0x0001) :=
  ⟨⟨_, rfl⟩, by decide⟩

/-- Both neighbours of a 16-bit store through a pointer. -/
theorem witness_MemoryFrame :
    (∃ t, exec (.movxImmInd 0x1234 0x1000) sample = .next t) ∧
    (0x1FFF : Addr) ∉ storedBytes sample (.movxImmInd 0x1234 0x1000) ∧
    (0x2002 : Addr) ∉ storedBytes sample (.movxImmInd 0x1234 0x1000) ∧
    (0x2001 : Addr) ∈ storedBytes sample (.movxImmInd 0x1234 0x1000) := ⟨⟨_, rfl⟩, by decide, by decide, by decide⟩

theorem witness_OnlySwpDraws : ∃ t, exec (.swp 0x00 0x07) sample = .next t ∧ t.draws ≠ sample.draws :=
  ⟨_, rfl, by decide⟩

theorem witness_NoInstructionReadsFlags : ∃ t, exec (.addImm 0x01) sample = .next t := ⟨_, rfl⟩

/-- A MOV, a PUSH, and both bytes of a MOVX through a pointer and of one across the end of memory. -/
theorem witness_StoresAreSeenByFetch :
    (∃ t, exec (.movImmAbs 0x01 0x0206) sample = .next t ∧
      ((0x0206 : Addr), (0x01 : Byte)) ∈ storedCells sample (.movImmAbs 0x01 0x0206) ∧
      t.pc + BitVec.ofNat 16 2 = 0x0206) ∧
    (∃ t, exec .push { sample with sp := 0x0200 } = .next t ∧
      ((0x0201 : Addr), (0x64 : Byte)) ∈ storedCells { sample with sp := 0x0200 } .push ∧
      t.pc + BitVec.ofNat 16 0 = 0x0201) ∧
    (∃ t, exec (.movxRegInd 0x00 0x1000) sample = .next t ∧
      storedCells sample (.movxRegInd 0x00 0x1000) = [(0x2000, 0x64), (0x2001, 0x10)] ∧
      t.pc + BitVec.ofNat 16 0x1DFC = 0x2000) ∧
    (∃ t, exec (.movxImmAbs 0x0102 0xFFFF) sample = .next t ∧
      storedCells sample (.movxImmAbs 0x0102 0xFFFF) = [(0xFFFF, 0x01), (0x0000, 0x02)] ∧
      t.pc + BitVec.ofNat 16 0xFDFB = 0x0000) :=
  ⟨⟨_, rfl, by decide, rfl⟩, ⟨_, rfl, by decide, rfl⟩, ⟨_, rfl, by decide, rfl⟩, _, rfl, by decide, rfl⟩

/-- A step that goes on, one that halts and one that faults. -/
theorem witness_StepKeepsCoherence :
    (State.reset.Coherent ∧ ∃ t, step State.reset = .next t) ∧
    ((start 0x0200 [0x01] []).Coherent ∧ ∃ t, step (start 0x0200 [0x01] []) = .next t) ∧
    ((start 0x0200 [0x28] []).Coherent ∧ ∃ t, step (start 0x0200 [0x28] []) = .next t) :=
  ⟨⟨⟨rfl, trivial⟩, _, rfl⟩, ⟨⟨rfl, trivial⟩, _, rfl⟩, ⟨rfl, trivial⟩, _, rfl⟩

theorem witness_CanonicalMemoriesAreExtensional :
    Memory.wf [(0, 0x01), (65535, 0xFF)] = true ∧
    ∀ a : Addr, Memory.read [(0, 0x01), (65535, 0xFF)] a = Memory.read [(0, 0x01), (65535, 0xFF)] a :=
  ⟨by decide, fun _ => rfl⟩

/-- A memory map with one hole and one device window, each at both its ends, the stack and the code at an end. -/
def mapped (pc sp : Addr) : State :=
  { State.reset with
    cfg := { Config.default with memMap := [⟨0x8000, 0x8FFF, .absent⟩, ⟨0x9000, 0x9FFF, .device⟩] }
    pc := pc
    sp := sp }

theorem witness_MemMapStopsAccesses :
    (mapped 0x8000 0x8000).cfg.kindAt 0x8000 = .absent ∧ (mapped 0x8FFF 0x8FFE).cfg.kindAt 0x8FFF = .absent ∧
    (mapped 0x9000 0x9000).cfg.kindAt 0x9000 = .device ∧ (mapped 0x9FFF 0x9FFE).cfg.kindAt 0x9FFF = .device ∧
    (mapped 0x9FFF 0x9FFE).sp + 1 = 0x9FFF ∧ (mapped 0x9000 0x9000).run = .running ∧
    (mapped 0x8000 0x8000).cfg.reg8 0x07 ≠ none ∧ (mapped 0x8000 0x8000).cfg.reg16 0x03 ≠ none := by decide

/-- R7 and decision D22: the registers are decoded before Data is read, so a bad destination byte faults though the
source address is one that nothing answers. -/
theorem test_mov_decodes_registers_first :
    exec (.movAbsReg 0x8000 0x08) (mapped 0x0200 0x00FF) =
      .next { mapped 0x0200 0x00FF with run := .faulted (.illegalRegister 0x08) 0x0200 } ∧
    exec (.movxIndReg 0x8000 0x04) (mapped 0x0200 0x00FF) =
      .next { mapped 0x0200 0x00FF with run := .faulted (.illegalRegister 0x04) 0x0200 } := ⟨rfl, rfl⟩

end Sys2Proof.Tests
end

/-! ## Operands in the instruction stream (`20_memory.md` R31) -/

namespace Sys2Proof.Machine

/-- The decoder's 16-bit read takes the byte at the lower place as the high one (R31). -/
theorem wordAt_operand16 (f : Nat → Byte) (k : Nat) : wordAt f k (operand16 f k) := catBytes_toNat (f k) (f (k + 1))

/-- The one source of an arithmetic opcode stands at byte 1: two bytes for an address and for an immediate of the X
width, one byte for an 8-bit immediate and for a register (`30_encoding.md` R54 to R57). -/
theorem operandsAt_instr_alu (f : Nat → Byte) (op : AluOp) (w : Width) (m : SrcMode) :
    operandsAt f ((Opcode.alu op w m).instr f) := by
  cases m with
  | imm =>
    cases w with
    | w8 => cases op <;> exact rfl
    | w16 => cases op <;> exact wordAt_operand16 f 1
  | abs => cases op <;> cases w <;> exact wordAt_operand16 f 1
  | ind => cases op <;> cases w <;> exact wordAt_operand16 f 1
  | reg => cases op <;> cases w <;> exact rfl

/-- The destination of a MOV or MOVX opcode follows its source: at byte 2 after a one-byte source, at byte 3 after a
two-byte one (R53). -/
theorem operandsAt_instr_mov (f : Nat → Byte) (w : Width) (sm : SrcMode) (dm : DstMode) :
    operandsAt f ((Opcode.mov w ⟨sm, dm⟩).instr f) := by
  have byteThenWord : f 1 = f 1 ∧ wordAt f 2 (operand16 f 2) := ⟨rfl, wordAt_operand16 f 2⟩
  have wordThenWord : wordAt f 1 (operand16 f 1) ∧ wordAt f 3 (operand16 f 3) :=
    ⟨wordAt_operand16 f 1, wordAt_operand16 f 3⟩
  have wordThenByte : wordAt f 1 (operand16 f 1) ∧ f 3 = f 3 := ⟨wordAt_operand16 f 1, rfl⟩
  cases sm with
  | imm =>
    cases w with
    | w8 => cases dm with
      | abs | ind => exact byteThenWord
      | reg => exact ⟨rfl, rfl⟩
    | w16 => cases dm with
      | abs | ind => exact wordThenWord
      | reg => exact wordThenByte
  | abs | ind =>
    cases dm with
    | abs | ind => cases w <;> exact wordThenWord
    | reg => cases w <;> exact wordThenByte
  | reg =>
    cases dm with
    | abs | ind => cases w <;> exact byteThenWord
    | reg => cases w <;> exact ⟨rfl, rfl⟩

/-- What an opcode reads from the instruction bytes are the operands at their places. -/
theorem operandsAt_instr (f : Nat → Byte) (o : Opcode) : operandsAt f (o.instr f) := by
  cases o with
  | nop | hcf | push | pop => exact trivial
  | swp => exact ⟨rfl, rfl⟩
  | alu op w m => exact operandsAt_instr_alu f op w m
  | mov w form => exact operandsAt_instr_mov f w form.src form.dst

/-- Settles O4: a decoded instruction is what its opcode reads from the bytes (`decode_eq_ok`), and each opcode reads
its operands at their places. -/
theorem operandsStandHighByteFirst : Obligations.OperandsStandHighByteFirst := by
  intro cfg f i h
  obtain ⟨o, -, rfl⟩ := decode_eq_ok.mp h
  exact operandsAt_instr f o

end Sys2Proof.Machine

/-! ## The opcode byte and the bytes after it (`30_encoding.md` R50) -/

namespace Sys2Proof

/-- What an opcode reads is what it reads once every byte past its length is blanked (R50). -/
theorem instr_blank_past_length (f : Nat → Byte) (o : Opcode) :
    o.instr f = o.instr (fun k => if k < o.length then f k else 0) := by
  cases o with
  | nop | hcf | push | pop | swp => rfl
  | alu op w m => cases op <;> cases w <;> cases m <;> rfl
  | mov w form =>
    obtain ⟨sm, dm⟩ := form
    cases w <;> cases sm <;> cases dm <;> rfl

/-- Byte strings alike up to the opcode's length give the same instruction. -/
theorem instr_congr {f g : Nat → Byte} {o : Opcode} (h : ∀ k, k < o.length → f k = g k) : o.instr f = o.instr g := by
  have sameBlanked : (fun k => if k < o.length then f k else 0) = fun k => if k < o.length then g k else 0 := by
    funext k
    split
    · exact h k ‹_›
    · rfl
  rw [instr_blank_past_length f, instr_blank_past_length g, sameBlanked]

/-- The two bytes of a 16-bit operand are the two bytes it was read from, in their order (R31). -/
theorem bytes_operand16 (f : Nat → Byte) (k : Nat) :
    [hiByte (operand16 f k), loByte (operand16 f k)] = [f k, f (k + 1)] := by
  simp [operand16]

/-- The operand bytes of an arithmetic instruction: byte 1, and byte 2 where the source takes two bytes. -/
theorem operandBytes_instr_alu (f : Nat → Byte) (op : AluOp) (w : Width) (m : SrcMode) :
    ((Opcode.alu op w m).instr f).operandBytes =
      (List.range ((Opcode.alu op w m).length - 1)).map (fun k => f (k + 1)) := by
  cases m with
  | imm =>
    cases w with
    | w8 => cases op <;> rfl
    | w16 => cases op <;> exact bytes_operand16 f 1
  | abs | ind => cases op <;> cases w <;> exact bytes_operand16 f 1
  | reg => cases op <;> cases w <;> rfl

/-- The operand bytes of a MOV or MOVX: those of the source, then those of the destination. -/
theorem operandBytes_instr_mov (f : Nat → Byte) (w : Width) (sm : SrcMode) (dm : DstMode) :
    ((Opcode.mov w ⟨sm, dm⟩).instr f).operandBytes =
      (List.range ((Opcode.mov w ⟨sm, dm⟩).length - 1)).map (fun k => f (k + 1)) := by
  have byteThenWord : f 1 :: [hiByte (operand16 f 2), loByte (operand16 f 2)] = [f 1, f 2, f 3] := by
    rw [bytes_operand16]
  have wordThenByte : [hiByte (operand16 f 1), loByte (operand16 f 1)] ++ [f 3] = [f 1, f 2, f 3] := by
    rw [bytes_operand16]; rfl
  have wordThenWord : [hiByte (operand16 f 1), loByte (operand16 f 1)] ++
      [hiByte (operand16 f 3), loByte (operand16 f 3)] = [f 1, f 2, f 3, f 4] := by
    rw [bytes_operand16, bytes_operand16]; rfl
  cases sm with
  | imm =>
    cases w with
    | w8 => cases dm with
      | abs | ind => exact byteThenWord
      | reg => rfl
    | w16 => cases dm with
      | abs | ind => exact wordThenWord
      | reg => exact wordThenByte
  | abs | ind =>
    cases dm with
    | abs | ind => cases w <;> exact wordThenWord
    | reg => cases w <;> exact wordThenByte
  | reg =>
    cases dm with
    | abs | ind => cases w <;> exact byteThenWord
    | reg => cases w <;> rfl

/-- The operand bytes of what an opcode reads are the bytes after the opcode byte, in order (R50). -/
theorem operandBytes_instr (f : Nat → Byte) (o : Opcode) :
    (o.instr f).operandBytes = (List.range (o.length - 1)).map (fun k => f (k + 1)) := by
  cases o with
  | nop | hcf | push | pop | swp => rfl
  | alu op w m => exact operandBytes_instr_alu f op w m
  | mov w form => exact operandBytes_instr_mov f w form.src form.dst

/-- The length of what an opcode reads is the opcode's (R64). -/
@[simp] theorem length_instr (f : Nat → Byte) (o : Opcode) : (o.instr f).length = o.length := by
  simp [Instr.length]

/-- Settles O3: a decoded instruction is what the opcode of its first byte reads (`decode_eq_ok`), and equal first
bytes select one opcode. -/
theorem opcodeByteAloneSelects : Obligations.OpcodeByteAloneSelects := by
  intro cfg f g i h h0
  obtain ⟨o, ho, rfl⟩ := decode_eq_ok.mp h
  have hg : decode cfg g = .ok (o.instr g) := decode_eq_ok.mpr ⟨o, h0 ▸ ho, rfl⟩
  obtain ⟨hmin, hmax⟩ := length_bounds (o.instr f)
  refine ⟨⟨o.instr g, hg, by simp, by simp⟩, hmin, hmax, fun hfg => ?_, ?_⟩
  · have sameInstr : o.instr f = o.instr g := instr_congr (by simpa using hfg)
    rw [hg, sameInstr]
  · rw [length_instr]
    exact operandBytes_instr f o

/-! ## The mnemonics of the opcode map (`30_encoding.md` R51) -/

/-- A bijective `MOV_OPCODES` fills all twelve cells of MOV and all twelve of MOVX (decision D1). -/
theorem length_movForms_of_wf {cfg : Config} (h : cfg.wf = true) :
    cfg.movForms.length = 12 ∧ cfg.movxForms.length = 12 := by
  simp only [Config.wf, movOpcodesWf, Bool.and_eq_true, beq_iff_eq] at h
  obtain ⟨⟨⟨hmov, -⟩, -⟩, ⟨hmovx, -⟩, -⟩ := h
  exact ⟨hmov, hmovx⟩

theorem mnemonic_ofByte_mov {cfg : Config} {b : Byte} (hwf : cfg.wf = true) (hb : 0x30 ≤ b.toNat ∧ b.toNat < 0x3C) :
    (Opcode.ofByte cfg b).map Opcode.mnemonic = some "MOV" := by
  obtain ⟨hlen, -⟩ := length_movForms_of_wf hwf
  rw [ofByte_mov hb, List.getElem?_eq_getElem (by omega)]
  rfl

theorem mnemonic_ofByte_movx {cfg : Config} {b : Byte} (hwf : cfg.wf = true) (hb : 0x40 ≤ b.toNat ∧ b.toNat < 0x4C) :
    (Opcode.ofByte cfg b).map Opcode.mnemonic = some "MOVX" := by
  obtain ⟨-, hlen⟩ := length_movForms_of_wf hwf
  rw [ofByte_movx hb, List.getElem?_eq_getElem (by omega)]
  rfl

/-- Settles O5: the MOV and MOVX cells are full because `MOV_OPCODES` is a bijection (`mnemonic_ofByte_mov`,
`mnemonic_ofByte_movx`); below 0x30 the map is a table of 48 cells, and every other cell is blank (`fixedCell_none`). -/
theorem opcodeMapCells : Obligations.OpcodeMapCells := by
  intro cfg b hwf
  by_cases hmov : 0x30 ≤ b.toNat ∧ b.toNat < 0x3C
  · rw [mnemonic_ofByte_mov hwf hmov]
    grind
  by_cases hmovx : 0x40 ≤ b.toNat ∧ b.toNat < 0x4C
  · rw [mnemonic_ofByte_movx hwf hmovx]
    grind
  rw [ofByte_fixed (by omega)]
  by_cases hlow : b.toNat < 0x30
  · clear hmov hmovx hwf
    revert b
    decide
  · rw [fixedCell_none _ b.isLt (by omega)]
    grind

end Sys2Proof

/-! ## Runs through zeroed memory (`42_data_memory.md` R189) -/

namespace Sys2Proof.Machine

/-- The bytes from an address on may be accessed exactly when each of them is RAM. -/
theorem accessFrom_eq_ok {s : State} {a : Addr} {n : Nat} :
    s.accessFrom a n = .ok () ↔ ∀ k, k < n → s.cfg.kindAt (a + BitVec.ofNat 16 k) = .ram := by
  induction n with
  | zero => simp [State.accessFrom]
  | succ n ih =>
    have lastByteAfterOthers : s.accessFrom a (n + 1) = .ok () ↔
        s.accessFrom a n = .ok () ∧ s.access (a + BitVec.ofNat 16 n) = .ok () := by
      simp [State.accessFrom]
    rw [lastByteAfterOthers, ih, access_eq_ok, Nat.forall_lt_succ_right]

/-- The fetch answers what the bytes at PC decode to, once all of them are RAM (`70_reset_and_hazards.md` R227). -/
theorem fetchInstr_of_decode {s : State} {i : Instr} (hdec : decode s.cfg s.fetchByte = .ok i)
    (hram : ∀ k, k < i.length → s.cfg.kindAt (s.pc + BitVec.ofNat 16 k) = .ram) : s.fetchInstr = .ok i := by
  have opcodeRam : s.access s.pc = .ok () := access_eq_ok.mpr (by simpa using hram 0 (length_bounds i).1)
  simp [State.fetchInstr, hdec, opcodeRam, accessFrom_eq_ok.mpr hram]

/-- The step of a running machine is the meaning of the instruction it fetched (R227). -/
theorem step_of_fetchInstr {s : State} {i : Instr} (hrun : s.run = .running) (hi : s.fetchInstr = .ok i) :
    step s = exec i s := by
  simp [step, hrun, hi]

/-- NOP moves PC one on and nothing else (R189). -/
theorem exec_nop_eq_advance (s : State) : exec .nop s = .next (s.advance 1) := by
  rw [exec_nop, execNop, finish_ok]

/-- A zero first byte is NOP whatever the parameters: its cell lies outside those `MOV_OPCODES` assigns (R52). -/
theorem decode_zero {cfg : Config} {f : Nat → Byte} (h : f 0 = 0x00) : decode cfg f = .ok .nop := by
  have zeroCell : Opcode.ofByte cfg (f 0) = some .nop := by
    rw [h, ofByte_fixed (by decide)]
    rfl
  exact decode_eq_ok.mpr ⟨.nop, zeroCell, rfl⟩

/-- A zero byte of RAM at PC: the step moves PC one on and nothing else. -/
theorem step_of_zero_at_pc {s : State} (hrun : s.run = .running) (hram : s.cfg.kindAt s.pc = .ram)
    (hzero : s.mem.read s.pc = 0x00) : step s = .next (s.advance 1) := by
  have hdec : decode s.cfg s.fetchByte = .ok .nop := decode_zero (by simpa [State.fetchByte] using hzero)
  have hfetch : s.fetchInstr = .ok .nop := fetchInstr_of_decode hdec fun k hk => by
    obtain rfl : k = 0 := Nat.lt_one_iff.mp hk
    simpa using hram
  rw [step_of_fetchInstr hrun hfetch, exec_nop_eq_advance]

/-- The place k past the next byte is the place k + 1 past this one; both wrap (R17). -/
theorem add_one_add_ofNat (a : Addr) (k : Nat) : a + 1 + BitVec.ofNat 16 k = a + BitVec.ofNat 16 (k + 1) := by
  rw [Nat.add_comm k 1, BitVec.ofNat_add, BitVec.add_assoc]
  rfl

theorem advance_one_advance (s : State) (n : Nat) :
    (s.advance 1).advance (BitVec.ofNat 16 n) = s.advance (BitVec.ofNat 16 (n + 1)) :=
  congrArg (fun pc => { s with pc := pc }) (add_one_add_ofNat s.pc n)

/-- A run of n steps over n zero bytes of RAM is n NOPs: each step leaves the run state, the parameters and the memory
as they were, so the bytes after the first are still zero for the rest of the run. -/
theorem runSteps_of_zeros {s : State} {n : Nat} (hrun : s.run = .running)
    (hzeros : ∀ k, k < n → s.cfg.kindAt (s.pc + BitVec.ofNat 16 k) = .ram ∧
      s.mem.read (s.pc + BitVec.ofNat 16 k) = 0x00) :
    runSteps n s = .next (s.advance (BitVec.ofNat 16 n)) := by
  induction n generalizing s with
  | zero => simp [State.advance]
  | succ n ih =>
    obtain ⟨hram, hzero⟩ : s.cfg.kindAt s.pc = .ram ∧ s.mem.read s.pc = 0x00 := by
      simpa using hzeros 0 n.succ_pos
    have zerosAfter : ∀ k, k < n →
        (s.advance 1).cfg.kindAt ((s.advance 1).pc + BitVec.ofNat 16 k) = .ram ∧
        (s.advance 1).mem.read ((s.advance 1).pc + BitVec.ofNat 16 k) = 0x00 := fun k hk => by
      simpa only [State.advance_cfg, State.advance_mem, State.advance_pc, add_one_add_ofNat]
        using hzeros (k + 1) (Nat.succ_lt_succ hk)
    calc runSteps (n + 1) s
        = runSteps n (s.advance 1) := runSteps_succ n (step_of_zero_at_pc hrun hram hzero)
      _ = .next ((s.advance 1).advance (BitVec.ofNat 16 n)) := ih hrun zerosAfter
      _ = .next (s.advance (BitVec.ofNat 16 (n + 1))) := by rw [advance_one_advance]

/-- Settles O12: NOP advances PC alone (`exec_nop_eq_advance`), and a zero byte is NOP, so zeroed memory is a run of
them (`runSteps_of_zeros`). -/
theorem nopChangesOnlyPc : Obligations.NopChangesOnlyPc :=
  ⟨exec_nop_eq_advance, fun _ _ => runSteps_of_zeros⟩

end Sys2Proof.Machine

/-! ## Stopped machines (`10_state.md` R29, `60_exceptions.md` R205) -/

namespace Sys2Proof.Machine

/-- Settles O10: a step that answers a next state was taken by a running machine (`step_next`), so neither a halted nor
a faulted one has such a step. -/
theorem stoppedMachineHasNoStep : Obligations.StoppedMachineHasNoStep := by
  intro s t hstopped hstep
  obtain ⟨hrunning, -⟩ := step_next hstep
  exact hstopped hrunning

end Sys2Proof.Machine

/-! ## Decoding and encoding are inverse (`30_encoding.md` R50 to R53, decision D1) -/

namespace Sys2Proof

/-- What a bijective `MOV_OPCODES` is, for MOV and for MOVX alike: no form stands in two cells, and every form stands in
one (decision D1). -/
theorem movOpcodesWf_iff {l : List MovForm} :
    movOpcodesWf l = true ↔ l.length = 12 ∧ l.Nodup ∧ ∀ f ∈ allMovForms, f ∈ l := by
  simp [movOpcodesWf, and_assoc]

theorem wf_iff_movForms {cfg : Config} :
    cfg.wf = true ↔ movOpcodesWf cfg.movForms = true ∧ movOpcodesWf cfg.movxForms = true := by
  simp [Config.wf]

theorem mem_allMovForms (f : MovForm) : f ∈ allMovForms := by
  obtain ⟨sm, dm⟩ := f
  cases sm <;> cases dm <;> decide

/-- A form stands at the cell its position in a bijective assignment gives. -/
theorem getElem?_idxOf_movForm {l : List MovForm} (h : movOpcodesWf l = true) (f : MovForm) :
    l.idxOf f < 12 ∧ l[l.idxOf f]? = some f := by
  obtain ⟨hlen, -, hall⟩ := movOpcodesWf_iff.mp h
  have hlt : l.idxOf f < l.length := List.idxOf_lt_length_of_mem (hall f (mem_allMovForms f))
  exact ⟨hlen ▸ hlt, by rw [List.getElem?_eq_getElem hlt, List.getElem_idxOf]⟩

/-- The cell of the opcode byte of an opcode is that opcode. -/
theorem ofByte_toByte {cfg : Config} (h : cfg.wf = true) (o : Opcode) : Opcode.ofByte cfg (o.toByte cfg) = some o := by
  obtain ⟨hmov, hmovx⟩ := wf_iff_movForms.mp h
  cases o with
  | nop | hcf | push | pop | swp => rfl
  | alu op w m => cases op <;> cases w <;> cases m <;> rfl
  | mov w f =>
    cases w with
    | w8 =>
      obtain ⟨hlt, hcell⟩ := getElem?_idxOf_movForm hmov f
      have hbyte : (Opcode.toByte cfg (.mov .w8 f)).toNat = 0x30 + cfg.movForms.idxOf f :=
        Nat.mod_eq_of_lt (by omega)
      rw [ofByte_mov (by omega), hbyte, Nat.add_sub_cancel_left, hcell]
      rfl
    | w16 =>
      obtain ⟨hlt, hcell⟩ := getElem?_idxOf_movForm hmovx f
      have hbyte : (Opcode.toByte cfg (.mov .w16 f)).toNat = 0x40 + cfg.movxForms.idxOf f :=
        Nat.mod_eq_of_lt (by omega)
      rw [ofByte_movx (by omega), hbyte, Nat.add_sub_cancel_left, hcell]
      rfl

/-- Outside the MOV and MOVX ranges the opcode byte of a cell's opcode is that cell (R52). -/
theorem toByte_of_fixedCell {cfg : Config} {n : Nat} {o : Opcode} (h : fixedCell n = some o) :
    o.toByte cfg = BitVec.ofNat 8 n := by
  unfold fixedCell at h
  split at h <;> cases h <;> rfl

/-- A form stands in no second cell. -/
theorem idxOf_of_getElem?_movForm {l : List MovForm} (h : movOpcodesWf l = true) {k : Nat} {f : MovForm}
    (hk : l[k]? = some f) : l.idxOf f = k := by
  obtain ⟨-, hnodup, -⟩ := movOpcodesWf_iff.mp h
  obtain ⟨hlt, rfl⟩ := List.getElem?_eq_some_iff.mp hk
  exact hnodup.idxOf_getElem k hlt

/-- No two bytes are one opcode: the opcode byte of a cell's opcode is the byte of that cell. -/
theorem toByte_of_ofByte {cfg : Config} (h : cfg.wf = true) {b : Byte} {o : Opcode}
    (ho : Opcode.ofByte cfg b = some o) : o.toByte cfg = b := by
  obtain ⟨hmov, hmovx⟩ := wf_iff_movForms.mp h
  by_cases hb : 0x30 ≤ b.toNat ∧ b.toNat < 0x3C
  · rw [ofByte_mov hb] at ho
    obtain ⟨f, hf, rfl⟩ := Option.map_eq_some_iff.mp ho
    rw [Opcode.toByte, idxOf_of_getElem?_movForm hmov hf, Nat.add_sub_cancel' hb.1, BitVec.ofNat_toNat,
      BitVec.setWidth_eq]
  by_cases hbx : 0x40 ≤ b.toNat ∧ b.toNat < 0x4C
  · rw [ofByte_movx hbx] at ho
    obtain ⟨f, hf, rfl⟩ := Option.map_eq_some_iff.mp ho
    rw [Opcode.toByte, idxOf_of_getElem?_movForm hmovx hf, Nat.add_sub_cancel' hbx.1, BitVec.ofNat_toNat,
      BitVec.setWidth_eq]
  · rw [ofByte_fixed (by omega)] at ho
    rw [toByte_of_fixedCell ho, BitVec.ofNat_toNat, BitVec.setWidth_eq]

/-- An instruction read back from its own bytes: each one-byte operand stands at its place, and each 16-bit operand is
put together again from its two bytes (`catBytes_hi_lo`). -/
theorem instr_encode (cfg : Config) (i : Instr) : i.opcode.instr (fun k => (encode cfg i).getD k 0) = i := by
  cases i <;> simp [encode, Instr.opcode, Instr.operandBytes, Opcode.instr, operand16]

/-- The encoding of an instruction is as long as the instruction (R64). -/
@[simp] theorem length_encode (cfg : Config) (i : Instr) : (encode cfg i).length = i.length := by
  cases i <;> rfl

/-- Bytes that begin with an instruction's encoding decode to it. -/
theorem decode_of_encode {cfg : Config} (h : cfg.wf = true) {f : Nat → Byte} {i : Instr}
    (hf : ∀ k, k < i.length → f k = (encode cfg i).getD k 0) : decode cfg f = .ok i := by
  have opcodeByte : f 0 = i.opcode.toByte cfg := hf 0 (length_bounds i).1
  have operands : i = i.opcode.instr f := by
    rw [instr_congr (o := i.opcode) hf, instr_encode]
  exact decode_eq_ok.mpr ⟨i.opcode, opcodeByte ▸ ofByte_toByte h i.opcode, operands⟩

/-- A list of bytes decodes to an instruction exactly when its first byte is there, its bytes decode, and it holds all
of them; the bytes after them are left. -/
theorem decodeBytes_eq_ok {cfg : Config} {bs rest : List Byte} {i : Instr} :
    decodeBytes cfg bs = .ok (i, rest) ↔
      bs ≠ [] ∧ decode cfg (fun k => bs.getD k 0) = .ok i ∧ i.length ≤ bs.length ∧ rest = bs.drop i.length := by
  cases bs with
  | nil => simp [decodeBytes]
  | cons b bs =>
    unfold decodeBytes
    cases hd : decode cfg (fun k => (b :: bs).getD k 0) with
    | error e => simp
    | ok j =>
      by_cases hlen : (b :: bs).length < j.length
      · simp only [hlen, if_true]
        constructor
        · intro h
          cases h
        · rintro ⟨-, h, hle, -⟩
          cases h
          omega
      · simp only [hlen, if_false]
        constructor
        · intro h
          cases h
          exact ⟨List.cons_ne_nil _ _, rfl, by omega, rfl⟩
        · rintro ⟨-, h, -, rfl⟩
          cases h
          rfl

/-- Settles O1: the bytes of an encoding decode to its instruction (`decode_of_encode`), and they are as many as the
instruction is long, so the rest is what follows them. -/
theorem decodeInvertsEncode : Obligations.DecodeInvertsEncode := by
  intro cfg i rest hwf
  have firstBytes : ∀ k, k < i.length → (encode cfg i ++ rest).getD k 0 = (encode cfg i).getD k 0 := fun k hk => by
    rw [List.getD_append _ _ _ _ (by simpa using hk)]
  refine decodeBytes_eq_ok.mpr ⟨by simp [encode], decode_of_encode hwf firstBytes, by simp, ?_⟩
  rw [← length_encode cfg i, List.drop_left]

/-- The bytes from one place on, as many as the list has there, are a stretch of the list. -/
theorem map_getD_range_succ {b : Byte} {bs : List Byte} {n : Nat} (h : n ≤ bs.length) :
    (List.range n).map (fun k => (b :: bs).getD (k + 1) 0) = bs.take n := by
  refine List.ext_getElem (by simpa using h) fun k hk _ => ?_
  have hk : k < bs.length := by
    rw [List.length_map, List.length_range] at hk
    omega
  simp [List.getElem?_eq_getElem hk]

/-- Settles O2: the opcode byte of the decoded opcode is the first byte (`toByte_of_ofByte`), the operand bytes are the
bytes after it (`operandBytes_instr`), and the rest is what the length leaves. -/
theorem encodeInvertsDecode : Obligations.EncodeInvertsDecode := by
  intro cfg bs rest i hwf h
  obtain ⟨hne, hdec, hlen, rfl⟩ := decodeBytes_eq_ok.mp h
  obtain ⟨o, ho, rfl⟩ := decode_eq_ok.mp hdec
  obtain ⟨b, bs, rfl⟩ := List.exists_cons_of_ne_nil hne
  obtain ⟨hpos, -⟩ := length_bounds (o.instr fun k => (b :: bs).getD k 0)
  rw [length_instr] at hlen hpos ⊢
  obtain ⟨n, hn⟩ : ∃ n, o.length = n + 1 := ⟨o.length - 1, by omega⟩
  have hle : n ≤ bs.length := by simpa [hn] using hlen
  have opcodeByte : o.toByte cfg = b := toByte_of_ofByte hwf ho
  rw [encode, opcode_instr, opcodeByte, operandBytes_instr, hn, Nat.add_sub_cancel, map_getD_range_succ hle,
    List.drop_succ_cons, List.cons_append, List.take_append_drop]

/-! ## The default map: lengths and sample words (`30_encoding.md` R52, R64) -/

/-- Settles O6: the length is that of the opcode in the cell of the first byte (`length_instr`), and under the default
parameters the map is one closed table, of the cells below 0x30, those of MOV and those from 0x3C on. -/
theorem lengthFromOpcodeByte : Obligations.LengthFromOpcodeByte := by
  intro f i h
  obtain ⟨o, ho, rfl⟩ := decode_eq_ok.mp h
  rw [length_instr]
  clear h
  generalize f 0 = b at ho ⊢
  replace ho : o ∈ Opcode.ofByte Config.default b := ho
  by_cases hlow : b.toNat < 0x30
  · revert o; revert b
    decide
  by_cases hmov : b.toNat < 0x3C
  · revert o; revert b
    decide
  · revert o; revert b
    decide

/-- Settles O7: each word is its bytes, low byte first, and these decode by the rows of R52. -/
theorem sampleWordsDecode : Obligations.SampleWordsDecode :=
  ⟨rfl, rfl, rfl, rfl, rfl, rfl, rfl, rfl, rfl, rfl, rfl, rfl, rfl, rfl, rfl, rfl, rfl⟩

end Sys2Proof

/-! ## The step of a running machine (`70_reset_and_hazards.md` R227) -/

namespace Sys2Proof.Machine

/-- Settles O8: RAM bytes that decode are fetched (`fetchInstr_of_decode`), and the step is the meaning of what it
fetched (`step_of_fetchInstr`). -/
theorem stepRunsDecodedInstruction : Obligations.StepRunsDecodedInstruction :=
  fun _ _ hrun hdec hram => step_of_fetchInstr hrun (fetchInstr_of_decode hdec hram)

/-- Settles O9: the bytes of an encoding decode to its instruction (`decode_of_encode`), which the step then runs. -/
theorem stepRunsEncodedInstruction : Obligations.StepRunsEncodedInstruction :=
  fun _ _ hrun hwf hram hbytes =>
    step_of_fetchInstr hrun (fetchInstr_of_decode (decode_of_encode hwf hbytes) fun _ _ => hram _)

/-- Byte 0 of the instruction at PC is the byte at PC. -/
@[simp] theorem fetchByte_zero (s : State) : s.fetchByte 0 = s.mem.read s.pc := by simp [State.fetchByte]

/-- A blank cell at PC, its byte in RAM: the step takes IllegalOpcode of that byte (`30_encoding.md` R61). -/
theorem step_of_blank {s : State} (hrun : s.run = .running) (hram : s.cfg.kindAt s.pc = .ram)
    (hblank : Opcode.ofByte s.cfg (s.mem.read s.pc) = none) :
    step s = .next (s.takeFault (.illegalOpcode (s.mem.read s.pc))) := by
  have hdec : decode s.cfg s.fetchByte = .error (.illegalOpcode (s.mem.read s.pc)) := by
    simp [decode, hblank]
  have hfetch : s.fetchInstr = .error (.raise (.illegalOpcode (s.mem.read s.pc))) := by
    simp [State.fetchInstr, access_eq_ok.mpr hram, hdec]
  simp [step, hrun, hfetch, State.stop]

/-- Settles O11: the three ranges are blank whatever the parameters (`ofByte_fixed`, `fixedCell_none`). -/
theorem blankOpcodeFaults : Obligations.BlankOpcodeFaults := by
  intro s b hrun hram hb hrange
  have hblank : Opcode.ofByte s.cfg b = none := by
    rw [ofByte_fixed (by omega), fixedCell_none _ b.isLt (by omega)]
  subst hb
  exact step_of_blank hrun hram hblank

/-- HCF halts the machine and moves PC one on (`41_control_flow.md` R150). -/
theorem exec_hcf_eq_halt_advance (s : State) : exec .hcf s = .next (s.halt.advance 1) := by
  rw [exec_hcf, execHcf, finish_ok]

/-- Settles O14: `halt` and `advance` write the run state and PC. -/
theorem hcfHalts : Obligations.HcfHalts := exec_hcf_eq_halt_advance

/-! ## Runs that have ended (`70_reset_and_hazards.md` R226) -/

/-- A run of n + k steps is a run of k steps from where n steps lead. -/
theorem runSteps_add {s t : State} {n : Nat} (h : runSteps n s = .next t) (k : Nat) :
    runSteps (n + k) s = runSteps k t := by
  induction n generalizing s with
  | zero =>
    obtain rfl : s = t := by simpa using h
    rw [Nat.zero_add]
  | succ n ih =>
    rw [Nat.add_right_comm]
    cases hs : step s with
    | next u =>
      rw [runSteps_succ n hs] at h
      rw [runSteps_succ _ hs, ih h]
    | fault f => simp [runSteps_fault n hs] at h
    | refused r => simp [runSteps_refused n hs] at h

theorem step_of_halted {s : State} (h : s.run = .halted) : step s = .fault .halted := by simp [step, h]

theorem step_of_faulted {s : State} {r : FaultReason} {p : Addr} (h : s.run = .faulted r p) :
    step s = .fault (.faulted r p) := by simp [step, h]

/-- Once a run has ended in a state whose step is a fault outcome, every longer run answers that outcome. -/
theorem runSteps_of_stuck {s t : State} {f : Fault} {n m : Nat} (h : runSteps n s = .next t)
    (hstuck : step t = .fault f) (hm : n < m) : runSteps m s = .fault f := by
  obtain ⟨k, rfl⟩ := Nat.exists_eq_add_of_lt hm
  rw [Nat.add_assoc, runSteps_add h, runSteps_fault k hstuck]

/-- Settles O13: both ends of a run are stuck (`step_of_halted`, `step_of_faulted`), so of two ends of one run neither
can come before the other (`runSteps_of_stuck`). -/
theorem goodEndIsFinal : Obligations.GoodEndIsFinal := by
  rintro n s t ⟨hrun, hhalted⟩
  have stuckAfter : ∀ m, n < m → runSteps m s = .fault .halted :=
    fun m hm => runSteps_of_stuck hrun (step_of_halted hhalted) hm
  refine ⟨stuckAfter, ?_⟩
  rintro m u ⟨hbad, r, p, hfaulted⟩
  rcases Nat.lt_trichotomy n m with hlt | rfl | hgt
  · rw [stuckAfter m hlt] at hbad
    cases hbad
  · rw [hrun] at hbad
    cases hbad
    rw [hhalted] at hfaulted
    cases hfaulted
  · rw [runSteps_of_stuck hbad (step_of_faulted hfaulted) hgt] at hrun
    cases hrun

end Sys2Proof.Machine

/-! ## What the shared operations answer

`Laws/Ops.lean` says what follows from an answer; these say which answer follows from the operands. -/

namespace Sys2Proof.Machine

/-- ADD, SUB and MUL complete once Data is read (`40_arithmetic_logic.md` R100). -/
theorem arith8_ok {op : AluOp} {src : Src 8 Byte} {len : Addr} {s : State} {d : Byte} (h : src.read8 s = .ok d) :
    arith8 op src len s = .next (((s.setReg8 .a (aluW op (s.regs.get .a) d).res).setFlags
      (aluFlags s.cfg op (s.regs.get .a) d s.flags)).advance len) := by
  simp [arith8, h]

theorem arith16_ok {op : AluOp} {src : Src 16 Byte} {len : Addr} {s : State} {d : Word} (h : src.read16 s = .ok d) :
    arith16 op src len s = .next (((s.setReg16 .ab (aluW op (s.regs.getPair .ab) d).res).setFlags
      (aluFlags s.cfg op (s.regs.getPair .ab) d s.flags)).advance len) := by
  simp [arith16, h]

/-- What stops the read of Data stops the instruction. -/
theorem arith8_error {op : AluOp} {src : Src 8 Byte} {len : Addr} {s : State} {e : Stop}
    (h : src.read8 s = .error e) : arith8 op src len s = s.stop e := by
  simp [arith8, h]

theorem arith16_error {op : AluOp} {src : Src 16 Byte} {len : Addr} {s : State} {e : Stop}
    (h : src.read16 s = .error e) : arith16 op src len s = s.stop e := by
  simp [arith16, h]

/-- DIV completes where division is unsigned and Data is not 0 (R104). -/
theorem div8_ok {src : Src 8 Byte} {len : Addr} {s : State} {d : Byte} (h : src.read8 s = .ok d)
    (hs : s.cfg.divSigned = false) (hd : d ≠ 0) :
    div8 src len s = .next ((((s.setReg8 .a (aluW .div (s.regs.get .a) d).res).setReg8 .b
      (remW (s.regs.get .a) d)).setFlags (divFlags s.cfg (s.regs.get .a) d s.flags)).advance len) := by
  have hc : divCheck s (d == 0#8) = .ok () := divCheck_eq_ok.mpr ⟨hs, by simpa using hd⟩
  simp [div8, h, hc]

theorem div16_ok {src : Src 16 Byte} {len : Addr} {s : State} {d : Word} (h : src.read16 s = .ok d)
    (hs : s.cfg.divSigned = false) (hd : d ≠ 0) :
    div16 src len s = .next ((((s.setReg16 .ab (aluW .div (s.regs.getPair .ab) d).res).setReg16 .cd
      (remW (s.regs.getPair .ab) d)).setFlags (divFlags s.cfg (s.regs.getPair .ab) d s.flags)).advance len) := by
  have hc : divCheck s (d == 0#16) = .ok () := divCheck_eq_ok.mpr ⟨hs, by simpa using hd⟩
  simp [div16, h, hc]

theorem div8_error {src : Src 8 Byte} {len : Addr} {s : State} {e : Stop} (h : src.read8 s = .error e) :
    div8 src len s = s.stop e := by
  simp [div8, h]

theorem div16_error {src : Src 16 Byte} {len : Addr} {s : State} {e : Stop} (h : src.read16 s = .error e) :
    div16 src len s = s.stop e := by
  simp [div16, h]

/-- Data 0 raises DivideByZero where division is unsigned (R104). -/
theorem div8_zero {src : Src 8 Byte} {len : Addr} {s : State} (h : src.read8 s = .ok 0)
    (hs : s.cfg.divSigned = false) : div8 src len s = .next (s.takeFault .divideByZero) := by
  have hc : divCheck s true = .error (.raise .divideByZero) := divCheck_raise.mpr ⟨hs, rfl, rfl⟩
  simp [div8, h, hc, State.stop]

theorem div16_zero {src : Src 16 Byte} {len : Addr} {s : State} (h : src.read16 s = .ok 0)
    (hs : s.cfg.divSigned = false) : div16 src len s = .next (s.takeFault .divideByZero) := by
  have hc : divCheck s true = .error (.raise .divideByZero) := divCheck_raise.mpr ⟨hs, rfl, rfl⟩
  simp [div16, h, hc, State.stop]

/-- A signed division is refused once Data is read, whatever Data is (`93_implementation_defined.md` U11). -/
theorem div8_signed {src : Src 8 Byte} {len : Addr} {s : State} {d : Byte} (h : src.read8 s = .ok d)
    (hs : s.cfg.divSigned = true) : div8 src len s = .refused .signedDivision := by
  simp [div8, h, divCheck, hs, State.stop]

theorem div16_signed {src : Src 16 Byte} {len : Addr} {s : State} {d : Word} (h : src.read16 s = .ok d)
    (hs : s.cfg.divSigned = true) : div16 src len s = .refused .signedDivision := by
  simp [div16, h, divCheck, hs, State.stop]

/-- An unmapped register byte stops the read of Data (`30_encoding.md` R62). -/
theorem read8_unmapped {b : Byte} {s : State} (h : s.cfg.reg8 b = none) :
    Src.read8 s (.reg b) = .error (.raise (.illegalRegister b)) := read8_raise.mpr ⟨b, rfl, h, rfl⟩

theorem read16_unmapped {b : Byte} {s : State} (h : s.cfg.reg16 b = none) :
    Src.read16 s (.reg b) = .error (.raise (.illegalRegister b)) := read16_raise.mpr ⟨b, rfl, h, rfl⟩

/-! What each source operand reads (`30_encoding.md` R54 to R57), the memory forms where all is RAM. -/

theorem read8_imm (s : State) (v : Byte) : Src.read8 s (.imm v) = .ok v := rfl

theorem read8_abs {s : State} (hram : s.AllRam) (a : Addr) : Src.read8 s (.abs a) = .ok (s.mem.read a) :=
  load8_ram hram a

theorem read8_ind {s : State} (hram : s.AllRam) (a : Addr) :
    Src.read8 s (.ind a) = .ok (s.mem.read (s.mem.read16 a)) := by
  simp [Src.read8, Src.decode, Src.value8, load16_ram hram, load8_ram hram]

theorem read8_reg {s : State} {b : Byte} {r : Reg8} (h : s.cfg.reg8 b = some r) :
    Src.read8 s (.reg b) = .ok (s.regs.get r) := by
  simp [Src.read8, Src.decode, Src.value8, reg8_eq_ok.mpr h]

theorem read16_imm (s : State) (v : Word) : Src.read16 s (.imm v) = .ok v := rfl

theorem read16_abs {s : State} (hram : s.AllRam) (a : Addr) : Src.read16 s (.abs a) = .ok (s.mem.read16 a) :=
  load16_ram hram a

theorem read16_ind {s : State} (hram : s.AllRam) (a : Addr) :
    Src.read16 s (.ind a) = .ok (s.mem.read16 (s.mem.read16 a)) := by
  simp [Src.read16, Src.decode, Src.value16, load16_ram hram]

theorem read16_reg {s : State} {b : Byte} {r : Reg16} (h : s.cfg.reg16 b = some r) :
    Src.read16 s (.reg b) = .ok (s.regs.getPair r) := by
  simp [Src.read16, Src.decode, Src.value16, reg16_eq_ok.mpr h]

/-- Under a map that is all RAM only an unmapped register byte stops the read of Data. -/
theorem read8_ram (s : State) (hram : s.AllRam) (src : Src 8 Byte) :
    (∃ v, src.read8 s = .ok v) ∨ ∃ b, src = .reg b ∧ s.cfg.reg8 b = none := by
  cases src with
  | imm v => exact .inl ⟨v, read8_imm s v⟩
  | abs a => exact .inl ⟨_, read8_abs hram a⟩
  | ind a => exact .inl ⟨_, read8_ind hram a⟩
  | reg b =>
    cases hb : s.cfg.reg8 b with
    | none => exact .inr ⟨b, rfl, hb⟩
    | some r => exact .inl ⟨_, read8_reg hb⟩

theorem read16_ram (s : State) (hram : s.AllRam) (src : Src 16 Byte) :
    (∃ v, src.read16 s = .ok v) ∨ ∃ b, src = .reg b ∧ s.cfg.reg16 b = none := by
  cases src with
  | imm v => exact .inl ⟨v, read16_imm s v⟩
  | abs a => exact .inl ⟨_, read16_abs hram a⟩
  | ind a => exact .inl ⟨_, read16_ind hram a⟩
  | reg b =>
    cases hb : s.cfg.reg16 b with
    | none => exact .inr ⟨b, rfl, hb⟩
    | some r => exact .inl ⟨_, read16_reg hb⟩

/-- Under a map that is all RAM a source whose register byte is mapped is read. -/
theorem read8_of_mapped {s : State} (hram : s.AllRam) {src : Src 8 Byte}
    (h : ∀ b, src = .reg b → s.cfg.reg8 b ≠ none) : ∃ v, src.read8 s = .ok v := by
  rcases read8_ram s hram src with hv | ⟨b, hb, hn⟩
  · exact hv
  · exact absurd hn (h b hb)

theorem read16_of_mapped {s : State} (hram : s.AllRam) {src : Src 16 Byte}
    (h : ∀ b, src = .reg b → s.cfg.reg16 b ≠ none) : ∃ v, src.read16 s = .ok v := by
  rcases read16_ram s hram src with hv | ⟨b, hb, hn⟩
  · exact hv
  · exact absurd hn (h b hb)

end Sys2Proof.Machine

/-! ## The shared operation an instruction is

`exec` has one arm per instruction and a few shared operations behind them. `Meaning` is an operation with its operands
and `meaningOf` gives each instruction its own, so what holds of every instruction is proved over nine cases, not 61. -/

namespace Sys2Proof.Machine

/-- The mode of a source operand. -/
def Src.mode {w : Nat} {ρ : Type} : Src w ρ → SrcMode
  | .imm _ => .imm
  | .abs _ => .abs
  | .ind _ => .ind
  | .reg _ => .reg

/-- The mode of a destination operand. -/
def Dst.mode {ρ : Type} : Dst ρ → DstMode
  | .abs _ => .abs
  | .ind _ => .ind
  | .reg _ => .reg

/-- The register operand of a source, read through the map `k`. -/
def Src.regOperands {w : Nat} (k : Byte → RegOperand) : Src w Byte → List RegOperand
  | .imm _ => []
  | .abs _ => []
  | .ind _ => []
  | .reg b => [k b]

/-- The register operand of a destination, read through the map `k`. -/
def Dst.regOperands (k : Byte → RegOperand) : Dst Byte → List RegOperand
  | .abs _ => []
  | .ind _ => []
  | .reg b => [k b]

/-- The register a MOV destination names. -/
def Dst.written8 (cfg : Config) : Dst Byte → List Reg8
  | .abs _ => []
  | .ind _ => []
  | .reg b => (cfg.reg8 b).toList

/-- The registers of the pair a MOVX destination names. -/
def Dst.written16 (cfg : Config) : Dst Byte → List Reg8
  | .abs _ => []
  | .ind _ => []
  | .reg b => pairHalves (cfg.reg16 b)

/-- A shared operation with its operands. -/
inductive Meaning where
  | nop | hcf | push | pop
  | swp (r1 r2 : Byte)
  | alu8 (op : AluOp) (src : Src 8 Byte)
  | alu16 (op : AluOp) (src : Src 16 Byte)
  | mov8 (src : Src 8 Byte) (dst : Dst Byte)
  | mov16 (src : Src 16 Byte) (dst : Dst Byte)

/-- The opcode of the instruction that is this operation. -/
def Meaning.opcode : Meaning → Opcode
  | .nop => .nop
  | .hcf => .hcf
  | .push => .push
  | .pop => .pop
  | .swp _ _ => .swp
  | .alu8 op src => .alu op .w8 src.mode
  | .alu16 op src => .alu op .w16 src.mode
  | .mov8 src dst => .mov .w8 ⟨src.mode, dst.mode⟩
  | .mov16 src dst => .mov .w16 ⟨src.mode, dst.mode⟩

/-- The length of the instruction, as a distance PC moves. -/
def Meaning.len (m : Meaning) : Addr := BitVec.ofNat 16 m.opcode.length

/-- The operation itself. -/
def Meaning.run (s : State) (m : Meaning) : Host.Outcome State Fault Refusal :=
  match m with
  | .nop => execNop s
  | .hcf => execHcf s
  | .push => execPush s
  | .pop => execPop s
  | .swp r1 r2 => execSwp r1 r2 s
  | .alu8 .div src => div8 src m.len s
  | .alu8 op src => arith8 op src m.len s
  | .alu16 .div src => div16 src m.len s
  | .alu16 op src => arith16 op src m.len s
  | .mov8 src dst => Machine.mov8 src dst m.len s
  | .mov16 src dst => Machine.mov16 src dst m.len s

/-- The register operands of the operation, in byte order. -/
def Meaning.regOperands : Meaning → List RegOperand
  | .nop | .hcf | .push | .pop => []
  | .swp r1 r2 => [.code8 r1, .code8 r2]
  | .alu8 _ src => src.regOperands .code8
  | .alu16 _ src => src.regOperands .code16
  | .mov8 src dst => src.regOperands .code8 ++ dst.regOperands .code8
  | .mov16 src dst => src.regOperands .code16 ++ dst.regOperands .code16

/-- The registers the operation may write. -/
def Meaning.written (cfg : Config) : Meaning → List Reg8
  | .nop | .hcf | .push => []
  | .pop => [.a]
  | .swp r1 r2 => (cfg.reg8 r1).toList ++ (cfg.reg8 r2).toList
  | .alu8 .div _ => [.a, .b]
  | .alu8 _ _ => [.a]
  | .alu16 .div _ => [.a, .b, .c, .d]
  | .alu16 _ _ => [.a, .b]
  | .mov8 _ dst => dst.written8 cfg
  | .mov16 _ dst => dst.written16 cfg

/-- The bytes the operation stores and where. -/
def Meaning.stored (s : State) : Meaning → List (Addr × Byte)
  | .push => [(s.sp + 1, s.regs.a)]
  | .mov8 src dst => storedByMov s src dst
  | .mov16 src dst => storedByMovx s src dst
  | .nop | .hcf | .pop | .swp _ _ | .alu8 _ _ | .alu16 _ _ => []

/-- The shared operation of each instruction. -/
def meaningOf : Instr → Meaning
  | .nop => .nop
  | .hcf => .hcf
  | .push => .push
  | .pop => .pop
  | .swp r1 r2 => .swp r1 r2
  | .addImm v => .alu8 .add (.imm v)
  | .addAbs a => .alu8 .add (.abs a)
  | .addInd a => .alu8 .add (.ind a)
  | .addReg r => .alu8 .add (.reg r)
  | .addxImm v => .alu16 .add (.imm v)
  | .addxAbs a => .alu16 .add (.abs a)
  | .addxInd a => .alu16 .add (.ind a)
  | .addxReg r => .alu16 .add (.reg r)
  | .subImm v => .alu8 .sub (.imm v)
  | .subAbs a => .alu8 .sub (.abs a)
  | .subInd a => .alu8 .sub (.ind a)
  | .subReg r => .alu8 .sub (.reg r)
  | .subxImm v => .alu16 .sub (.imm v)
  | .subxAbs a => .alu16 .sub (.abs a)
  | .subxInd a => .alu16 .sub (.ind a)
  | .subxReg r => .alu16 .sub (.reg r)
  | .mulImm v => .alu8 .mul (.imm v)
  | .mulAbs a => .alu8 .mul (.abs a)
  | .mulInd a => .alu8 .mul (.ind a)
  | .mulReg r => .alu8 .mul (.reg r)
  | .mulxImm v => .alu16 .mul (.imm v)
  | .mulxAbs a => .alu16 .mul (.abs a)
  | .mulxInd a => .alu16 .mul (.ind a)
  | .mulxReg r => .alu16 .mul (.reg r)
  | .divImm v => .alu8 .div (.imm v)
  | .divAbs a => .alu8 .div (.abs a)
  | .divInd a => .alu8 .div (.ind a)
  | .divReg r => .alu8 .div (.reg r)
  | .divxImm v => .alu16 .div (.imm v)
  | .divxAbs a => .alu16 .div (.abs a)
  | .divxInd a => .alu16 .div (.ind a)
  | .divxReg r => .alu16 .div (.reg r)
  | .movImmAbs v dst => .mov8 (.imm v) (.abs dst)
  | .movAbsAbs src dst => .mov8 (.abs src) (.abs dst)
  | .movIndAbs src dst => .mov8 (.ind src) (.abs dst)
  | .movRegAbs rs dst => .mov8 (.reg rs) (.abs dst)
  | .movImmInd v dst => .mov8 (.imm v) (.ind dst)
  | .movAbsInd src dst => .mov8 (.abs src) (.ind dst)
  | .movIndInd src dst => .mov8 (.ind src) (.ind dst)
  | .movRegInd rs dst => .mov8 (.reg rs) (.ind dst)
  | .movImmReg v rd => .mov8 (.imm v) (.reg rd)
  | .movAbsReg src rd => .mov8 (.abs src) (.reg rd)
  | .movIndReg src rd => .mov8 (.ind src) (.reg rd)
  | .movRegReg rs rd => .mov8 (.reg rs) (.reg rd)
  | .movxImmAbs v dst => .mov16 (.imm v) (.abs dst)
  | .movxAbsAbs src dst => .mov16 (.abs src) (.abs dst)
  | .movxIndAbs src dst => .mov16 (.ind src) (.abs dst)
  | .movxRegAbs rs dst => .mov16 (.reg rs) (.abs dst)
  | .movxImmInd v dst => .mov16 (.imm v) (.ind dst)
  | .movxAbsInd src dst => .mov16 (.abs src) (.ind dst)
  | .movxIndInd src dst => .mov16 (.ind src) (.ind dst)
  | .movxRegInd rs dst => .mov16 (.reg rs) (.ind dst)
  | .movxImmReg v rd => .mov16 (.imm v) (.reg rd)
  | .movxAbsReg src rd => .mov16 (.abs src) (.reg rd)
  | .movxIndReg src rd => .mov16 (.ind src) (.reg rd)
  | .movxRegReg rs rd => .mov16 (.reg rs) (.reg rd)

/-- Every arm of `exec` is the operation of its instruction. -/
theorem exec_eq_run (i : Instr) (s : State) : exec i s = (meaningOf i).run s := by cases i <;> rfl

@[simp] theorem opcode_meaningOf (i : Instr) : (meaningOf i).opcode = i.opcode := by cases i <;> rfl

@[simp] theorem regOperands_meaningOf (i : Instr) : (meaningOf i).regOperands = i.regOperands := by cases i <;> rfl

@[simp] theorem written_meaningOf (cfg : Config) (i : Instr) : (meaningOf i).written cfg = registersWritten cfg i := by
  cases i <;> rfl

@[simp] theorem stored_meaningOf (s : State) (i : Instr) : (meaningOf i).stored s = storedCells s i := by
  cases i <;> rfl

end Sys2Proof.Machine

/-! ## What an instruction changes

Said once, over the shared operations: an instruction that answers a next state took a fault it may raise, or completed
within its footprint. -/

namespace Sys2Proof.Machine

/-- The fault may be raised by an instruction of opcode `o` with register operands `rs` (`60_exceptions.md` R200). -/
def Raises (cfg : Config) (o : Opcode) (rs : List RegOperand) : FaultReason → Prop
  | .illegalOpcode _ => False
  | .illegalRegister b => ∃ x ∈ rs, operandByte x = b ∧ x.mapped cfg = false
  | .divideByZero => ∃ w m, o = .alu .div w m

/-- Bytes stored one after the other, each at its own address. -/
def storeCells (m : Memory) (cells : List (Addr × Byte)) : Memory := cells.foldl (fun m c => m.write c.1 c.2) m

/-- The instruction of opcode `o` completed from `s` in `t`: PC and the run state, and of every other field what stays,
`written` being the registers it may write and `stored` the bytes it stores. Where an operation does not touch a field,
the field stays by definition, so most of this is filled in unsaid. -/
structure Completes (o : Opcode) (written : List Reg8) (stored : List (Addr × Byte)) (s t : State) : Prop where
  pc_eq : t.pc = s.pc + BitVec.ofNat 16 o.length := by rfl
  run_eq : t.run = (if o = .hcf then .halted else s.run) := by rfl
  cfg_eq : t.cfg = s.cfg := by rfl
  p_eq : t.flags.p = s.flags.p := by rfl
  i_eq : t.flags.i = s.flags.i := by rfl
  co_eq : writesCO o = false → t.flags.c = s.flags.c ∧ t.flags.o = s.flags.o := by exact fun _ => ⟨rfl, rfl⟩
  flags_eq : writesNZ o = false → t.flags = s.flags := by exact nofun
  sp_eq : o ≠ .push → o ≠ .pop → t.sp = s.sp := by exact fun _ _ => rfl
  regs_eq : ∀ q, q ∉ written → t.regs.get q = s.regs.get q := by exact fun _ _ => rfl
  mem_eq : t.mem = storeCells s.mem stored := by rfl
  draws_eq : t.draws ≠ s.draws → o = .swp ∧ s.cfg.swpNz = .any := by exact fun h => absurd rfl h

/-- The answer `t` of the operation `m` from `s`: the entry of a fault it may raise, which comes before every store, or
its completion. -/
def Meaning.Answers (m : Meaning) (s t : State) : Prop :=
  (∃ r, Raises s.cfg m.opcode m.regOperands r ∧ m.stored s = [] ∧ t = s.takeFault r) ∨
    Completes m.opcode (m.written s.cfg) (m.stored s) s t

theorem aluFlags_p {w : Nat} (cfg : Config) (op : AluOp) (a d : BitVec w) (f : Flags) :
    (aluFlags cfg op a d f).p = f.p := by
  unfold aluFlags
  split <;> rfl

theorem aluFlags_i {w : Nat} (cfg : Config) (op : AluOp) (a d : BitVec w) (f : Flags) :
    (aluFlags cfg op a d f).i = f.i := by
  unfold aluFlags
  split <;> rfl

theorem divFlags_p {w : Nat} (cfg : Config) (a d : BitVec w) (f : Flags) : (divFlags cfg a d f).p = f.p := by
  unfold divFlags
  split <;> rfl

theorem divFlags_i {w : Nat} (cfg : Config) (a d : BitVec w) (f : Flags) : (divFlags cfg a d f).i = f.i := by
  unfold divFlags
  split <;> rfl

/-- A pair write leaves every register outside its two halves. -/
theorem get_setPair_of_ne (r : Regs) {p : Reg16} {q : Reg8} (v : Word) (hh : q ≠ pairHigh p) (hl : q ≠ pairLow p) :
    (r.setPair p v).get q = r.get q := by
  rw [get_setPair, if_neg hl, if_neg hh]

/-- An unmapped byte of a register operand is a byte the instruction may report. -/
theorem raises_unmapped8 {cfg : Config} {o : Opcode} {rs : List RegOperand} {b : Byte} (hb : .code8 b ∈ rs)
    (hn : cfg.reg8 b = none) : Raises cfg o rs (.illegalRegister b) :=
  ⟨.code8 b, hb, rfl, by simp [RegOperand.mapped, hn]⟩

theorem raises_unmapped16 {cfg : Config} {o : Opcode} {rs : List RegOperand} {b : Byte} (hb : .code16 b ∈ rs)
    (hn : cfg.reg16 b = none) : Raises cfg o rs (.illegalRegister b) :=
  ⟨.code16 b, hb, rfl, by simp [RegOperand.mapped, hn]⟩

theorem nop_answers {s t : State} (h : Meaning.nop.run s = .next t) : Meaning.nop.Answers s t := by
  obtain rfl : s.advance 1 = t := by simpa [Meaning.run, execNop] using h
  exact .inr { flags_eq := fun _ => rfl }

theorem hcf_answers {s t : State} (h : Meaning.hcf.run s = .next t) : Meaning.hcf.Answers s t := by
  obtain rfl : s.halt.advance 1 = t := by simpa [Meaning.run, execHcf] using h
  exact .inr { flags_eq := fun _ => rfl }

theorem push_answers {s t : State} (h : Meaning.push.run s = .next t) : Meaning.push.Answers s t := by
  obtain ⟨-, rfl⟩ := push_next h
  exact .inr { sp_eq := fun h => absurd rfl h }

theorem pop_answers {s t : State} (h : Meaning.pop.run s = .next t) : Meaning.pop.Answers s t := by
  obtain ⟨-, rfl⟩ := pop_next h
  exact .inr
    { sp_eq := fun _ h => absurd rfl h
      regs_eq := fun q hq => get_set_ne s.regs _ (by simpa [Meaning.written] using hq) }

/-- SWP's flag write counts a draw only where both flags are free (`42_data_memory.md` R186). -/
theorem swpNz_of_setSwpNZ_draws {s : State} {x y : Byte} (h : (s.setSwpNZ x y).draws ≠ s.draws) :
    s.cfg.swpNz = .any := by
  unfold State.setSwpNZ at h
  split at h
  · exact absurd rfl h
  · exact absurd rfl h
  · assumption

theorem swp_answers {r1 r2 : Byte} {s t : State} (h : (Meaning.swp r1 r2).run s = .next t) :
    (Meaning.swp r1 r2).Answers s t := by
  rcases swp_next h with ⟨x, y, hx, hy, rfl⟩ | ⟨b, hb, hn, rfl⟩
  · have draws := @swpNz_of_setSwpNZ_draws ((s.setReg8 x (s.regs.get y)).setReg8 y (s.regs.get x))
      (s.regs.get y) (s.regs.get x)
    obtain ⟨z, n, k, hframe⟩ :=
      setSwpNZ_frame ((s.setReg8 x (s.regs.get y)).setReg8 y (s.regs.get x)) (s.regs.get y) (s.regs.get x)
    rw [hframe] at draws ⊢
    refine .inr { regs_eq := fun q hq => ?_, draws_eq := fun h => ⟨rfl, draws h⟩ }
    obtain ⟨hqx, hqy⟩ : q ≠ x ∧ q ≠ y := by simpa [Meaning.written, hx, hy] using hq
    exact (get_set_ne _ _ hqy).trans (get_set_ne _ _ hqx)
  · exact .inl ⟨_, raises_unmapped8 (by simpa [Meaning.regOperands] using hb) hn, rfl, rfl⟩

theorem alu8_answers {op : AluOp} {src : Src 8 Byte} {s t : State} (h : (Meaning.alu8 op src).run s = .next t) :
    (Meaning.alu8 op src).Answers s t := by
  cases op with
  | add | sub | mul =>
    rcases arith8_next h with ⟨d, -, rfl⟩ | ⟨b, rfl, hn, rfl⟩
    · exact .inr
        { p_eq := aluFlags_p .., i_eq := aluFlags_i .., co_eq := nofun
          regs_eq := fun q hq => get_set_ne s.regs _ (by simpa [Meaning.written] using hq) }
    · exact .inl ⟨_, raises_unmapped8 (.head _) hn, rfl, rfl⟩
  | div =>
    rcases div8_next h with ⟨d, -, -, -, rfl⟩ | ⟨-, rfl⟩ | ⟨b, rfl, hn, rfl⟩
    · refine .inr { p_eq := divFlags_p .., i_eq := divFlags_i .., co_eq := nofun, regs_eq := fun q hq => ?_ }
      obtain ⟨hqa, hqb⟩ : q ≠ .a ∧ q ≠ .b := by simpa [Meaning.written] using hq
      exact (get_set_ne _ _ hqb).trans (get_set_ne _ _ hqa)
    · exact .inl ⟨.divideByZero, ⟨_, _, rfl⟩, rfl, rfl⟩
    · exact .inl ⟨_, raises_unmapped8 (.head _) hn, rfl, rfl⟩

theorem alu16_answers {op : AluOp} {src : Src 16 Byte} {s t : State} (h : (Meaning.alu16 op src).run s = .next t) :
    (Meaning.alu16 op src).Answers s t := by
  cases op with
  | add | sub | mul =>
    rcases arith16_next h with ⟨d, -, rfl⟩ | ⟨b, rfl, hn, rfl⟩
    · refine .inr { p_eq := aluFlags_p .., i_eq := aluFlags_i .., co_eq := nofun, regs_eq := fun q hq => ?_ }
      obtain ⟨hqa, hqb⟩ : q ≠ .a ∧ q ≠ .b := by simpa [Meaning.written] using hq
      exact get_setPair_of_ne s.regs _ hqa hqb
    · exact .inl ⟨_, raises_unmapped16 (.head _) hn, rfl, rfl⟩
  | div =>
    rcases div16_next h with ⟨d, -, -, -, rfl⟩ | ⟨-, rfl⟩ | ⟨b, rfl, hn, rfl⟩
    · refine .inr { p_eq := divFlags_p .., i_eq := divFlags_i .., co_eq := nofun, regs_eq := fun q hq => ?_ }
      obtain ⟨hqa, hqb, hqc, hqd⟩ : q ≠ .a ∧ q ≠ .b ∧ q ≠ .c ∧ q ≠ .d := by simpa [Meaning.written] using hq
      exact (get_setPair_of_ne _ _ hqc hqd).trans (get_setPair_of_ne s.regs _ hqa hqb)
    · exact .inl ⟨.divideByZero, ⟨_, _, rfl⟩, rfl, rfl⟩
    · exact .inl ⟨_, raises_unmapped16 (.head _) hn, rfl, rfl⟩

/-- A destination that comes to a register is the register operand that names it. -/
theorem resolve8_eq_reg {s : State} {dst : Dst Byte} {r : Reg8} (h : dst.resolve8 s = .ok (.reg r)) :
    ∃ b, dst = .reg b ∧ s.cfg.reg8 b = some r := by
  cases dst with
  | abs a => cases h
  | ind a => simp [Dst.resolve8, Dst.decode, Dst.place] at h
  | reg b => simpa [Dst.resolve8, Dst.decode, Dst.place, reg8_eq_ok] using h

theorem resolve16_eq_reg {s : State} {dst : Dst Byte} {r : Reg16} (h : dst.resolve16 s = .ok (.reg r)) :
    ∃ b, dst = .reg b ∧ s.cfg.reg16 b = some r := by
  cases dst with
  | abs a => cases h
  | ind a => simp [Dst.resolve16, Dst.decode, Dst.place] at h
  | reg b => simpa [Dst.resolve16, Dst.decode, Dst.place, reg16_eq_ok] using h

/-- An unmapped destination byte stops the destination operand (`30_encoding.md` R62). -/
theorem resolve8_unmapped {b : Byte} {s : State} (h : s.cfg.reg8 b = none) :
    Dst.resolve8 s (.reg b) = .error (.raise (.illegalRegister b)) := by
  simp [Dst.resolve8, Dst.decode, reg8_eq_error.mpr ⟨h, rfl⟩]

theorem resolve16_unmapped {b : Byte} {s : State} (h : s.cfg.reg16 b = none) :
    Dst.resolve16 s (.reg b) = .error (.raise (.illegalRegister b)) := by
  simp [Dst.resolve16, Dst.decode, reg16_eq_error.mpr ⟨h, rfl⟩]

/-- A MOV with an unmapped register byte stores nothing. -/
theorem storedByMov_of_unmapped {src : Src 8 Byte} {dst : Dst Byte} {s : State} {b : Byte}
    (hb : src = .reg b ∨ dst = .reg b) (hn : s.cfg.reg8 b = none) : storedByMov s src dst = [] := by
  rcases hb with rfl | rfl
  · simp [storedByMov, read8_unmapped hn]
  · unfold storedByMov
    rw [resolve8_unmapped hn]
    cases src.read8 s <;> rfl

theorem storedByMovx_of_unmapped {src : Src 16 Byte} {dst : Dst Byte} {s : State} {b : Byte}
    (hb : src = .reg b ∨ dst = .reg b) (hn : s.cfg.reg16 b = none) : storedByMovx s src dst = [] := by
  rcases hb with rfl | rfl
  · simp [storedByMovx, read16_unmapped hn]
  · unfold storedByMovx
    rw [resolve16_unmapped hn]
    cases src.read16 s <;> rfl

theorem mov8_answers {src : Src 8 Byte} {dst : Dst Byte} {s t : State} (h : (Meaning.mov8 src dst).run s = .next t) :
    (Meaning.mov8 src dst).Answers s t := by
  rcases mov8_next h with ⟨v, l, u, hv, hl, hu, rfl⟩ | ⟨b, hb, hn, rfl⟩
  · rcases put8_eq_ok.mp hu with ⟨a, rfl, -, rfl⟩ | ⟨r, rfl, rfl⟩
    · exact .inr { mem_eq := by simp [Meaning.stored, storedByMov, hv, hl, storeCells] }
    · obtain ⟨b, rfl, hr⟩ := resolve8_eq_reg hl
      exact .inr
        { regs_eq := fun q hq => get_set_ne s.regs _ (by simpa [Meaning.written, Dst.written8, hr] using hq)
          mem_eq := by simp [Meaning.stored, storedByMov, hv, hl, storeCells] }
  · refine .inl ⟨_, raises_unmapped8 ?_ hn, storedByMov_of_unmapped hb hn, rfl⟩
    rcases hb with rfl | rfl
    · exact List.mem_append_left _ (.head _)
    · exact List.mem_append_right _ (.head _)

theorem mov16_answers {src : Src 16 Byte} {dst : Dst Byte} {s t : State}
    (h : (Meaning.mov16 src dst).run s = .next t) : (Meaning.mov16 src dst).Answers s t := by
  rcases mov16_next h with ⟨v, l, u, hv, hl, hu, rfl⟩ | ⟨b, hb, hn, rfl⟩
  · rcases put16_eq_ok.mp hu with ⟨a, rfl, -, rfl⟩ | ⟨r, rfl, rfl⟩
    · exact .inr { mem_eq := by simp [Meaning.stored, storedByMovx, hv, hl, storeCells, Memory.write16] }
    · obtain ⟨b, rfl, hr⟩ := resolve16_eq_reg hl
      refine .inr
        { regs_eq := fun q hq => ?_
          mem_eq := by simp [Meaning.stored, storedByMovx, hv, hl, storeCells] }
      obtain ⟨hqh, hql⟩ : q ≠ pairHigh r ∧ q ≠ pairLow r := by
        simpa [Meaning.written, Dst.written16, hr, pairHalves] using hq
      exact get_setPair_of_ne s.regs _ hqh hql
  · refine .inl ⟨_, raises_unmapped16 ?_ hn, storedByMovx_of_unmapped hb hn, rfl⟩
    rcases hb with rfl | rfl
    · exact List.mem_append_left _ (.head _)
    · exact List.mem_append_right _ (.head _)

/-- Everything a shared operation can answer as a next state. -/
theorem Meaning.answers {m : Meaning} {s t : State} (h : m.run s = .next t) : m.Answers s t := by
  cases m with
  | nop => exact nop_answers h
  | hcf => exact hcf_answers h
  | push => exact push_answers h
  | pop => exact pop_answers h
  | swp r1 r2 => exact swp_answers h
  | alu8 op src => exact alu8_answers h
  | alu16 op src => exact alu16_answers h
  | mov8 src dst => exact mov8_answers h
  | mov16 src dst => exact mov16_answers h

/-- Everything an instruction can answer as a next state. -/
theorem exec_next {i : Instr} {s t : State} (h : exec i s = .next t) :
    (∃ r, Raises s.cfg i.opcode i.regOperands r ∧ storedCells s i = [] ∧ t = s.takeFault r) ∨
      Completes i.opcode (registersWritten s.cfg i) (storedCells s i) s t := by
  rw [exec_eq_run] at h
  simpa [Meaning.Answers] using Meaning.answers h

end Sys2Proof.Machine

/-! ## Whole-machine rules: the frame of every instruction -/

namespace Sys2Proof.Machine

theorem eq_hcf_iff_opcode {i : Instr} : i = .hcf ↔ i.opcode = .hcf := by cases i <;> simp [Instr.opcode]

theorem eq_push_iff_opcode {i : Instr} : i = .push ↔ i.opcode = .push := by cases i <;> simp [Instr.opcode]

theorem eq_pop_iff_opcode {i : Instr} : i = .pop ↔ i.opcode = .pop := by cases i <;> simp [Instr.opcode]

/-- The fetched instruction is what the bytes at PC decode to (`70_reset_and_hazards.md` R227). -/
theorem decode_of_fetchInstr {s : State} {i : Instr} (h : s.fetchInstr = .ok i) :
    decode s.cfg s.fetchByte = .ok i := by
  obtain ⟨-, -, h⟩ := (bind_eq_ok _ _ _).mp h
  split at h
  · cases h
  · next j hj =>
    obtain ⟨-, -, h⟩ := (bind_eq_ok _ _ _).mp h
    cases h
    exact hj

/-- What the byte at PC says of the instruction fetched. -/
theorem ofByte_of_fetchInstr {s : State} {i : Instr} (h : s.fetchInstr = .ok i) :
    Opcode.ofByte s.cfg (s.mem.read s.pc) = some i.opcode := by
  obtain ⟨o, ho, rfl⟩ := decode_eq_ok.mp (decode_of_fetchInstr h)
  rw [opcode_instr, ← fetchByte_zero, ho]

/-- The byte at PC is the one a fetch of a blank cell reports. -/
theorem ofByte_of_decode_error {s : State} {b : Byte} (h : decode s.cfg s.fetchByte = .error (.illegalOpcode b)) :
    s.mem.read s.pc = b ∧ Opcode.ofByte s.cfg b = none := by
  unfold decode at h
  split at h
  · next hblank =>
    cases h
    rw [← fetchByte_zero]
    exact ⟨rfl, hblank⟩
  · cases h

/-- HCF stands in cell 0x01 and in no other, whatever the parameters (`30_encoding.md` R51). -/
theorem ofByte_eq_hcf {cfg : Config} {b : Byte} : Opcode.ofByte cfg b = some .hcf ↔ b = 0x01 := by
  constructor
  · intro h
    by_cases hmov : 0x30 ≤ b.toNat ∧ b.toNat < 0x3C
    · rw [ofByte_mov hmov] at h
      obtain ⟨f, -, hf⟩ := Option.map_eq_some_iff.mp h
      cases hf
    by_cases hmovx : 0x40 ≤ b.toNat ∧ b.toNat < 0x4C
    · rw [ofByte_movx hmovx] at h
      obtain ⟨f, -, hf⟩ := Option.map_eq_some_iff.mp h
      cases hf
    · rw [ofByte_fixed (by omega)] at h
      have hbyte : (0x01 : Byte) = BitVec.ofNat 8 b.toNat := toByte_of_fixedCell (cfg := cfg) h
      rw [hbyte, BitVec.ofNat_toNat, BitVec.setWidth_eq]
  · rintro rfl
    rfl

/-- Settles O41: a fault leaves PC, and a completed instruction moves it by its length (`Completes`). -/
theorem pcAdvancesByLength : Obligations.PcAdvancesByLength := by
  intro i s t h
  rcases exec_next h with ⟨r, -, -, rfl⟩ | hc
  · exact .inl ⟨r, rfl⟩
  · refine .inr ⟨hc.pc_eq, ?_⟩
    rw [hc.run_eq]
    exact if_congr eq_hcf_iff_opcode.symm rfl rfl

/-- Settles O44: a fault leaves every flag, and a completed instruction those its mask does not mark (`Completes`). -/
theorem flagMasksHold : Obligations.FlagMasksHold := by
  intro i s t h
  rcases exec_next h with ⟨r, -, -, rfl⟩ | hc
  · exact ⟨⟨rfl, rfl⟩, fun _ => ⟨rfl, rfl⟩, fun _ => rfl⟩
  · exact ⟨⟨hc.p_eq, hc.i_eq⟩, hc.co_eq, hc.flags_eq⟩

/-- Settles O45: no fault moves SP, and of what completes only PUSH and POP (`Completes`). -/
theorem onlyPushAndPopMoveSp : Obligations.OnlyPushAndPopMoveSp := by
  intro i s t h hpush hpop
  rcases exec_next h with ⟨r, -, -, rfl⟩ | hc
  · rfl
  · exact hc.sp_eq (mt eq_push_iff_opcode.mpr hpush) (mt eq_pop_iff_opcode.mpr hpop)

/-- Settles O46: no fault writes a register, and what completes writes those of its table alone (`Completes`). -/
theorem registerFrame : Obligations.RegisterFrame := by
  intro i s t h q hq
  rcases exec_next h with ⟨r, -, -, rfl⟩ | hc
  · rfl
  · exact hc.regs_eq q hq

/-- A byte stored to by no cell stays. -/
theorem read_storeCells_of_notMem {m : Memory} {cells : List (Addr × Byte)} {x : Addr}
    (h : x ∉ cells.map Prod.fst) : (storeCells m cells).read x = m.read x := by
  induction cells generalizing m with
  | nil => rfl
  | cons c cells ih =>
    simp only [List.map_cons, List.mem_cons, not_or] at h
    obtain ⟨hne, hrest⟩ := h
    exact (ih hrest).trans (read_write_ne m c.2 hne)

/-- Settles O47: memory after a completed instruction is the old one with its cells stored, a fault stores none. -/
theorem memoryFrame : Obligations.MemoryFrame := by
  intro i s t h x hx
  rcases exec_next h with ⟨r, -, -, rfl⟩ | hc
  · rfl
  · rw [hc.mem_eq]
    exact read_storeCells_of_notMem hx

/-- Settles O48: no fault draws, and of what completes only a SWP whose flags are free (`swpNz_of_setSwpNZ_draws`). -/
theorem onlySwpDraws : Obligations.OnlySwpDraws := by
  intro i s t h hdraws
  rcases exec_next h with ⟨r, -, -, rfl⟩ | hc
  · exact absurd rfl hdraws
  · exact hc.draws_eq hdraws

/-- The bytes of a MOVX store lie at two addresses, so no address is stored to twice (`20_memory.md` R46). -/
theorem nodup_stored (s : State) (m : Meaning) : ((m.stored s).map Prod.fst).Nodup := by
  cases m with
  | nop | hcf | pop | swp | alu8 | alu16 => exact List.nodup_nil
  | push => exact List.nodup_singleton _
  | mov8 src dst =>
    change ((storedByMov s src dst).map Prod.fst).Nodup
    unfold storedByMov
    split <;> simp
  | mov16 src dst =>
    change ((storedByMovx s src dst).map Prod.fst).Nodup
    unfold storedByMovx
    split <;> simp

/-- Of cells at addresses of their own, each holds its byte once all are stored. -/
theorem read_storeCells_of_mem {m : Memory} {cells : List (Addr × Byte)} {x : Addr} {b : Byte}
    (hnodup : (cells.map Prod.fst).Nodup) (h : (x, b) ∈ cells) : (storeCells m cells).read x = b := by
  induction cells generalizing m with
  | nil => cases h
  | cons c cells ih =>
    obtain ⟨hfresh, hrest⟩ := List.nodup_cons.mp hnodup
    rcases List.mem_cons.mp h with rfl | h
    · exact (read_storeCells_of_notMem hfresh).trans (read_write_same m x b)
    · exact ih hrest h

/-- Settles O50: an instruction that takes a fault stores nothing; one that completes stores at addresses of their own
(`nodup_stored`), and a fetch reads the memory they were stored in. -/
theorem storesAreSeenByFetch : Obligations.StoresAreSeenByFetch := by
  intro i s t x b k h hcell hx
  rcases exec_next h with ⟨r, -, hnone, rfl⟩ | hc
  · rw [hnone] at hcell
    cases hcell
  · rw [State.fetchByte, hx, hc.mem_eq]
    exact read_storeCells_of_mem (by simpa using nodup_stored s (meaningOf i)) hcell

/-! ## Whole-machine rules: the step -/

/-- A fault the fetched instruction may raise is explained by the bytes at PC (`60_exceptions.md` R200). -/
theorem faultExplained_of_raises {s : State} {i : Instr} {r : FaultReason} (hi : s.fetchInstr = .ok i)
    (hr : Raises s.cfg i.opcode i.regOperands r) : faultExplained s r := by
  cases r with
  | illegalOpcode b => exact hr.elim
  | illegalRegister b => exact ⟨i, decode_of_fetchInstr hi, hr⟩
  | divideByZero =>
    obtain ⟨w, m, ho⟩ := hr
    exact ⟨w, m, ho ▸ ofByte_of_fetchInstr hi⟩

/-- Everything a step can do, by fields: it took a fault that the bytes at PC explain, or the instruction fetched
completed. -/
theorem step_cases {s t : State} (h : step s = .next t) :
    s.run = .running ∧ ((∃ r, faultExplained s r ∧ t = s.takeFault r) ∨
      ∃ i, s.fetchInstr = .ok i ∧ Completes i.opcode (registersWritten s.cfg i) (storedCells s i) s t) := by
  obtain ⟨hrun, ⟨i, hi, hexec⟩ | ⟨b, hb, rfl⟩⟩ := step_next h
  · rcases exec_next hexec with ⟨r, hr, -, ht⟩ | hc
    · exact ⟨hrun, .inl ⟨r, faultExplained_of_raises hi hr, ht⟩⟩
    · exact ⟨hrun, .inr ⟨i, hi, hc⟩⟩
  · exact ⟨hrun, .inl ⟨.illegalOpcode b, ofByte_of_decode_error hb, rfl⟩⟩

/-- HCF raises no fault, so the byte of a faulting instruction is not its opcode. -/
theorem read_pc_ne_hcf_of_faultExplained {s : State} {r : FaultReason} (h : faultExplained s r) :
    s.mem.read s.pc ≠ 0x01 := by
  rw [Ne, ← ofByte_eq_hcf (cfg := s.cfg)]
  intro hhcf
  cases r with
  | illegalOpcode b =>
    obtain ⟨rfl, hblank⟩ := h
    rw [hblank] at hhcf
    cases hhcf
  | illegalRegister b =>
    obtain ⟨i, hdec, x, hx, -⟩ := h
    obtain ⟨o, ho, rfl⟩ := decode_eq_ok.mp hdec
    rw [fetchByte_zero, hhcf] at ho
    cases ho
    cases hx
  | divideByZero =>
    obtain ⟨w, m, hdiv⟩ := h
    rw [hdiv] at hhcf
    cases hhcf

/-- Settles O40: a completed instruction leaves the run state of a running machine running or halted. -/
theorem faultChangesOnlyRunState : Obligations.FaultChangesOnlyRunState := by
  intro s t r p h hfaulted
  obtain ⟨hrun, ⟨r', -, rfl⟩ | ⟨i, -, hc⟩⟩ := step_cases h
  · cases hfaulted
    exact ⟨rfl, rfl⟩
  · rw [hc.run_eq, hrun] at hfaulted
    split at hfaulted <;> cases hfaulted

/-- Settles O42: a fault leaves the machine faulted and its opcode is not HCF (`read_pc_ne_hcf_of_faultExplained`); a
completed instruction leaves it halted exactly when its opcode is HCF, which stands in cell 0x01 alone. -/
theorem onlyHcfHalts : Obligations.OnlyHcfHalts := by
  intro s t h
  obtain ⟨hrun, ⟨r, hr, rfl⟩ | ⟨i, hi, hc⟩⟩ := step_cases h
  · exact iff_of_false (by simp) (read_pc_ne_hcf_of_faultExplained hr)
  · rw [hc.run_eq, hrun, ← ofByte_eq_hcf (cfg := s.cfg), ofByte_of_fetchInstr hi]
    simp

/-- Settles O43: neither a fault nor a completed instruction writes P, I or a parameter (`step_cases`). -/
theorem stepKeepsParityInterruptAndParameters : Obligations.StepKeepsParityInterruptAndParameters := by
  intro s t h
  obtain ⟨-, ⟨r, -, rfl⟩ | ⟨i, -, hc⟩⟩ := step_cases h
  · exact ⟨rfl, rfl, rfl⟩
  · exact ⟨hc.p_eq, hc.i_eq, hc.cfg_eq⟩

/-! ## The invariant -/

theorem storeCells_wf {m : Memory} {cells : List (Addr × Byte)} (h : m.wf = true) :
    (storeCells m cells).wf = true := by
  induction cells generalizing m with
  | nil => exact h
  | cons c cells ih => exact ih (write_wf m c.1 c.2 h)

/-- What explains a fault is in the fields the fault leaves unchanged (`60_exceptions.md` R203). -/
theorem faultExplained_takeFault {s : State} {r q : FaultReason} :
    faultExplained (s.takeFault q) r ↔ faultExplained s r := by
  cases r <;> rfl

/-- After an HCF the byte before PC is its opcode: it stores nothing and moves PC one on (`41_control_flow.md` R150). -/
theorem read_before_pc_of_hcf {s t : State} (hbyte : s.mem.read s.pc = 0x01)
    (hc : Completes Instr.hcf.opcode (registersWritten s.cfg .hcf) (storedCells s .hcf) s t) :
    t.mem.read (t.pc - 1) = 0x01 := by
  have hpc : t.pc - 1 = s.pc := by
    rw [hc.pc_eq]
    exact BitVec.add_sub_cancel s.pc 1
  rw [hpc, hc.mem_eq]
  exact hbyte

/-- Settles O51: memory keeps its form under every store (`storeCells_wf`), a fault is explained by the state it leaves
unchanged, and of the instructions that complete only HCF leaves the machine other than running. -/
theorem stepKeepsCoherence : Obligations.StepKeepsCoherence := by
  rintro s t ⟨hwf, -⟩ h
  obtain ⟨hrun, ⟨r, hr, rfl⟩ | ⟨i, hi, hc⟩⟩ := step_cases h
  · exact ⟨hwf, rfl, faultExplained_takeFault.mpr hr⟩
  · refine ⟨hc.mem_eq ▸ storeCells_wf hwf, ?_⟩
    by_cases hhcf : i = .hcf
    · subst hhcf
      have hbyte : s.mem.read s.pc = 0x01 := ofByte_eq_hcf.mp (ofByte_of_fetchInstr hi)
      have hhalted : t.run = .halted := hc.run_eq
      rw [hhalted]
      exact read_before_pc_of_hcf hbyte hc
    · have hrunning : t.run = .running := by
        rw [hc.run_eq, if_neg (mt eq_hcf_iff_opcode.mpr hhcf), hrun]
      rw [hrunning]
      exact trivial

/-- Settles O52: memory after reset is empty, and a running machine has nothing to explain. -/
theorem resetIsCoherent : Obligations.ResetIsCoherent := ⟨reset_mem_wf, trivial⟩

end Sys2Proof.Machine

/-! ## No instruction needs more than its operands -/

namespace Sys2Proof.Machine

/-! Where each destination operand lies (`42_data_memory.md` R161), the pointer of Indirect where all is RAM. -/

theorem resolve8_abs (s : State) (a : Addr) : Dst.resolve8 s (.abs a) = .ok (.mem a) := rfl

theorem resolve8_ind {s : State} (hram : s.AllRam) (a : Addr) :
    Dst.resolve8 s (.ind a) = .ok (.mem (s.mem.read16 a)) := by
  simp [Dst.resolve8, Dst.decode, Dst.place, load16_ram hram]

theorem resolve8_reg {s : State} {b : Byte} {r : Reg8} (h : s.cfg.reg8 b = some r) :
    Dst.resolve8 s (.reg b) = .ok (.reg r) := by
  simp [Dst.resolve8, Dst.decode, Dst.place, reg8_eq_ok.mpr h]

theorem resolve16_abs (s : State) (a : Addr) : Dst.resolve16 s (.abs a) = .ok (.mem a) := rfl

theorem resolve16_ind {s : State} (hram : s.AllRam) (a : Addr) :
    Dst.resolve16 s (.ind a) = .ok (.mem (s.mem.read16 a)) := by
  simp [Dst.resolve16, Dst.decode, Dst.place, load16_ram hram]

theorem resolve16_reg {s : State} {b : Byte} {r : Reg16} (h : s.cfg.reg16 b = some r) :
    Dst.resolve16 s (.reg b) = .ok (.reg r) := by
  simp [Dst.resolve16, Dst.decode, Dst.place, reg16_eq_ok.mpr h]

/-- Under a map that is all RAM only an unmapped register byte stops a MOV destination. -/
theorem resolve8_ram (s : State) (hram : s.AllRam) (dst : Dst Byte) :
    (∃ l, dst.resolve8 s = .ok l) ∨ ∃ b, dst = .reg b ∧ s.cfg.reg8 b = none := by
  cases dst with
  | abs a => exact .inl ⟨_, resolve8_abs s a⟩
  | ind a => exact .inl ⟨_, resolve8_ind hram a⟩
  | reg b =>
    cases hb : s.cfg.reg8 b with
    | none => exact .inr ⟨b, rfl, hb⟩
    | some r => exact .inl ⟨_, resolve8_reg hb⟩

theorem resolve16_ram (s : State) (hram : s.AllRam) (dst : Dst Byte) :
    (∃ l, dst.resolve16 s = .ok l) ∨ ∃ b, dst = .reg b ∧ s.cfg.reg16 b = none := by
  cases dst with
  | abs a => exact .inl ⟨_, resolve16_abs s a⟩
  | ind a => exact .inl ⟨_, resolve16_ind hram a⟩
  | reg b =>
    cases hb : s.cfg.reg16 b with
    | none => exact .inr ⟨b, rfl, hb⟩
    | some r => exact .inl ⟨_, resolve16_reg hb⟩

/-- Under a map that is all RAM a write to memory or to a register completes. -/
theorem put8_ram (s : State) (hram : s.AllRam) (v : Byte) (l : Loc Reg8) : ∃ u, s.put8 v l = .ok u := by
  cases l with
  | mem a => exact ⟨_, store8_ram hram a v⟩
  | reg r => exact ⟨_, rfl⟩

theorem put16_ram (s : State) (hram : s.AllRam) (v : Word) (l : Loc Reg16) : ∃ u, s.put16 v l = .ok u := by
  cases l with
  | mem a => exact ⟨_, store16_ram hram a v⟩
  | reg r => exact ⟨_, rfl⟩

/-- A MOV with an unmapped register byte takes IllegalRegister, of the source's byte if that one is unmapped, whatever
the flags are. -/
theorem mov8_of_unmapped {src : Src 8 Byte} {dst : Dst Byte} {s : State} {b : Byte}
    (hb : src = .reg b ∨ dst = .reg b) (hn : s.cfg.reg8 b = none) :
    ∃ c, ∀ f len, mov8 src dst len (s.setFlags f) = .next ((s.takeFault (.illegalRegister c)).setFlags f) := by
  by_cases hsrc : ∃ c, src = .reg c ∧ s.cfg.reg8 c = none
  · obtain ⟨c, rfl, hc⟩ := hsrc
    exact ⟨c, fun f _ => mov8_src_unmapped (s := s.setFlags f) hc⟩
  · rcases hb with rfl | rfl
    · exact absurd ⟨b, rfl, hn⟩ hsrc
    · exact ⟨b, fun f _ => mov8_dst_unmapped (s := s.setFlags f) (fun c hc hcn => hsrc ⟨c, hc, hcn⟩) hn⟩

/-- A MOVX with an unmapped register byte takes IllegalRegister, of the source's byte if that one is unmapped, whatever
the flags are. -/
theorem mov16_of_unmapped {src : Src 16 Byte} {dst : Dst Byte} {s : State} {b : Byte}
    (hb : src = .reg b ∨ dst = .reg b) (hn : s.cfg.reg16 b = none) :
    ∃ c, ∀ f len, mov16 src dst len (s.setFlags f) = .next ((s.takeFault (.illegalRegister c)).setFlags f) := by
  by_cases hsrc : ∃ c, src = .reg c ∧ s.cfg.reg16 c = none
  · obtain ⟨c, rfl, hc⟩ := hsrc
    exact ⟨c, fun f _ => mov16_src_unmapped (s := s.setFlags f) hc⟩
  · rcases hb with rfl | rfl
    · exact absurd ⟨b, rfl, hn⟩ hsrc
    · exact ⟨b, fun f _ => mov16_dst_unmapped (s := s.setFlags f) (fun c hc hcn => hsrc ⟨c, hc, hcn⟩) hn⟩

/-! ### Every instruction answers a next state (`20_memory.md` R40) -/

theorem alu8_ram (s : State) (hram : s.AllRam) (hsigned : s.cfg.divSigned = false) (op : AluOp) (src : Src 8 Byte) :
    ∃ t, (Meaning.alu8 op src).run s = .next t := by
  rcases read8_ram s hram src with ⟨d, hd⟩ | ⟨b, rfl, hn⟩
  · cases op with
    | add | sub | mul => exact ⟨_, arith8_ok hd⟩
    | div =>
      by_cases hz : d = 0
      · exact ⟨_, div8_zero (hz ▸ hd) hsigned⟩
      · exact ⟨_, div8_ok hd hsigned hz⟩
  · cases op with
    | add | sub | mul => exact ⟨_, arith8_error (read8_unmapped hn)⟩
    | div => exact ⟨_, div8_error (read8_unmapped hn)⟩

theorem alu16_ram (s : State) (hram : s.AllRam) (hsigned : s.cfg.divSigned = false) (op : AluOp) (src : Src 16 Byte) :
    ∃ t, (Meaning.alu16 op src).run s = .next t := by
  rcases read16_ram s hram src with ⟨d, hd⟩ | ⟨b, rfl, hn⟩
  · cases op with
    | add | sub | mul => exact ⟨_, arith16_ok hd⟩
    | div =>
      by_cases hz : d = 0
      · exact ⟨_, div16_zero (hz ▸ hd) hsigned⟩
      · exact ⟨_, div16_ok hd hsigned hz⟩
  · cases op with
    | add | sub | mul => exact ⟨_, arith16_error (read16_unmapped hn)⟩
    | div => exact ⟨_, div16_error (read16_unmapped hn)⟩

theorem mov8_ram (s : State) (hram : s.AllRam) (src : Src 8 Byte) (dst : Dst Byte) (len : Addr) :
    ∃ t, mov8 src dst len s = .next t := by
  rcases read8_ram s hram src with ⟨v, hv⟩ | ⟨b, hb, hn⟩
  · rcases resolve8_ram s hram dst with ⟨l, hl⟩ | ⟨b, hb, hn⟩
    · obtain ⟨u, hu⟩ := put8_ram s hram v l
      exact ⟨_, mov8_ok hv hl hu⟩
    · obtain ⟨c, hc⟩ := mov8_of_unmapped (.inr hb) hn
      exact ⟨_, hc s.flags len⟩
  · obtain ⟨c, hc⟩ := mov8_of_unmapped (.inl hb) hn
    exact ⟨_, hc s.flags len⟩

theorem mov16_ram (s : State) (hram : s.AllRam) (src : Src 16 Byte) (dst : Dst Byte) (len : Addr) :
    ∃ t, mov16 src dst len s = .next t := by
  rcases read16_ram s hram src with ⟨v, hv⟩ | ⟨b, hb, hn⟩
  · rcases resolve16_ram s hram dst with ⟨l, hl⟩ | ⟨b, hb, hn⟩
    · obtain ⟨u, hu⟩ := put16_ram s hram v l
      exact ⟨_, mov16_ok hv hl hu⟩
    · obtain ⟨c, hc⟩ := mov16_of_unmapped (.inr hb) hn
      exact ⟨_, hc s.flags len⟩
  · obtain ⟨c, hc⟩ := mov16_of_unmapped (.inl hb) hn
    exact ⟨_, hc s.flags len⟩

/-- SWP with two mapped bytes completes (`42_data_memory.md` R186). -/
theorem swp_ok {r1 r2 : Byte} {x y : Reg8} {s : State} (hx : s.cfg.reg8 r1 = some x) (hy : s.cfg.reg8 r2 = some y) :
    execSwp r1 r2 s = .next ((((s.setReg8 x (s.regs.get y)).setReg8 y (s.regs.get x)).setSwpNZ
      (s.regs.get y) (s.regs.get x)).advance 3) := by
  simp [execSwp, reg8_eq_ok.mpr hx, reg8_eq_ok.mpr hy]

/-- Of two operand bytes of SWP the first unmapped one is reported (`30_encoding.md` R62). -/
theorem swp_first_unmapped {r1 r2 : Byte} {s : State} (h : s.cfg.reg8 r1 = none) :
    execSwp r1 r2 s = .next (s.takeFault (.illegalRegister r1)) := by
  simp [execSwp, reg8_eq_error.mpr ⟨h, rfl⟩, State.stop]

theorem swp_second_unmapped {r1 r2 : Byte} {x : Reg8} {s : State} (hx : s.cfg.reg8 r1 = some x)
    (h : s.cfg.reg8 r2 = none) : execSwp r1 r2 s = .next (s.takeFault (.illegalRegister r2)) := by
  simp [execSwp, reg8_eq_ok.mpr hx, reg8_eq_error.mpr ⟨h, rfl⟩, State.stop]

/-- SWP accesses no memory, so it always answers a next state. -/
theorem swp_total (r1 r2 : Byte) (s : State) : ∃ t, execSwp r1 r2 s = .next t := by
  cases hx : s.cfg.reg8 r1 with
  | none => exact ⟨_, swp_first_unmapped hx⟩
  | some x =>
    cases hy : s.cfg.reg8 r2 with
    | none => exact ⟨_, swp_second_unmapped hx hy⟩
    | some y => exact ⟨_, swp_ok hx hy⟩

/-- PUSH completes where the byte above SP is RAM (`42_data_memory.md` R187). -/
theorem push_ok {s : State} (h : s.cfg.kindAt (s.sp + 1) = .ram) :
    execPush s = .next ((((s.setSp (s.sp + 1)).setMem (s.mem.write (s.sp + 1) (s.regs.get .a))).setFlags
      (s.flags.setNZ (s.regs.get .a))).advance 1) := by
  have hstore : (s.setSp (s.sp + 1)).store8 (s.sp + 1) (s.regs.get .a) =
      .ok ((s.setSp (s.sp + 1)).setMem (s.mem.write (s.sp + 1) (s.regs.get .a))) :=
    store8_eq_ok.mpr ⟨access_eq_ok.mpr h, rfl⟩
  simp only [execPush, hstore, ok_bind, pure_eq_ok, finish_ok]

/-- POP completes where the byte at SP is RAM (R188). -/
theorem pop_ok {s : State} (h : s.cfg.kindAt s.sp = .ram) :
    execPop s = .next ((((s.setReg8 .a (s.mem.read s.sp)).setSp (s.sp - 1)).setFlags
      (s.flags.setNZ (s.mem.read s.sp))).advance 1) := by
  have hload : s.load8 s.sp = .ok (s.mem.read s.sp) := load8_eq_ok.mpr ⟨access_eq_ok.mpr h, rfl⟩
  simp [execPop, hload]

/-- Settles O39: under an all-RAM map only an unmapped register byte stops an operand, and that, like a zero divisor, is
a fault and so a next state. -/
theorem everyInstructionAnswersNext : Obligations.EveryInstructionAnswersNext := by
  intro i s hram hsigned
  rw [exec_eq_run]
  cases meaningOf i with
  | nop | hcf => exact ⟨_, rfl⟩
  | push => exact ⟨_, push_ok (hram _)⟩
  | pop => exact ⟨_, pop_ok (hram _)⟩
  | swp r1 r2 => exact swp_total r1 r2 s
  | alu8 op src => exact alu8_ram s hram hsigned op src
  | alu16 op src => exact alu16_ram s hram hsigned op src
  | mov8 src dst => exact mov8_ram s hram src dst _
  | mov16 src dst => exact mov16_ram s hram src dst _

/-! ### No instruction reads a flag (`10_state.md` section 4)

Each operation run with other flags reads the same operands, so it answers the same state but for the flags. -/

theorem read8_setFlags (s : State) (f : Flags) (src : Src 8 Byte) : src.read8 (s.setFlags f) = src.read8 s := by
  cases src <;> rfl

theorem read16_setFlags (s : State) (f : Flags) (src : Src 16 Byte) : src.read16 (s.setFlags f) = src.read16 s := by
  cases src <;> rfl

theorem resolve8_setFlags (s : State) (f : Flags) (dst : Dst Byte) : dst.resolve8 (s.setFlags f) = dst.resolve8 s := by
  cases dst <;> rfl

theorem resolve16_setFlags (s : State) (f : Flags) (dst : Dst Byte) :
    dst.resolve16 (s.setFlags f) = dst.resolve16 s := by
  cases dst <;> rfl

theorem put8_setFlags {s u : State} {v : Byte} {l : Loc Reg8} (f : Flags) (h : s.put8 v l = .ok u) :
    (s.setFlags f).put8 v l = .ok (u.setFlags f) := by
  rcases put8_eq_ok.mp h with ⟨a, rfl, ha, rfl⟩ | ⟨r, rfl, rfl⟩
  · exact put8_eq_ok.mpr (.inl ⟨a, rfl, ha, rfl⟩)
  · rfl

theorem put16_setFlags {s u : State} {v : Word} {l : Loc Reg16} (f : Flags) (h : s.put16 v l = .ok u) :
    (s.setFlags f).put16 v l = .ok (u.setFlags f) := by
  rcases put16_eq_ok.mp h with ⟨a, rfl, ha, rfl⟩ | ⟨r, rfl, rfl⟩
  · exact put16_eq_ok.mpr (.inl ⟨a, rfl, ha, rfl⟩)
  · rfl

theorem unsigned_of_div8_next {src : Src 8 Byte} {len : Addr} {s t : State} {d : BitVec 8}
    (hd : src.read8 s = .ok d) (h : div8 src len s = .next t) : s.cfg.divSigned = false := by
  by_contra hs
  rw [div8_signed hd (by simpa using hs)] at h
  cases h

theorem alu8_setFlags {op : AluOp} {src : Src 8 Byte} {s t : State} (f : Flags)
    (h : (Meaning.alu8 op src).run s = .next t) :
    ∃ g, (Meaning.alu8 op src).run (s.setFlags f) = .next (t.setFlags g) := by
  cases op with
  | add | sub | mul =>
    rcases arith8_next h with ⟨d, hd, rfl⟩ | ⟨b, rfl, hn, rfl⟩
    · exact ⟨_, arith8_ok ((read8_setFlags s f src).trans hd)⟩
    · exact ⟨f, arith8_error (read8_unmapped (s := s.setFlags f) hn)⟩
  | div =>
    rcases div8_next h with ⟨d, hd, hz, hs, rfl⟩ | ⟨hd, rfl⟩ | ⟨b, rfl, hn, rfl⟩
    · exact ⟨_, div8_ok ((read8_setFlags s f src).trans hd) hs hz⟩
    · have hs : s.cfg.divSigned = false := unsigned_of_div8_next hd h
      exact ⟨f, div8_zero ((read8_setFlags s f src).trans hd) hs⟩
    · exact ⟨f, div8_error (read8_unmapped (s := s.setFlags f) hn)⟩

theorem unsigned_of_div16_next {src : Src 16 Byte} {len : Addr} {s t : State} {d : BitVec 16}
    (hd : src.read16 s = .ok d) (h : div16 src len s = .next t) : s.cfg.divSigned = false := by
  by_contra hs
  rw [div16_signed hd (by simpa using hs)] at h
  cases h

theorem alu16_setFlags {op : AluOp} {src : Src 16 Byte} {s t : State} (f : Flags)
    (h : (Meaning.alu16 op src).run s = .next t) :
    ∃ g, (Meaning.alu16 op src).run (s.setFlags f) = .next (t.setFlags g) := by
  cases op with
  | add | sub | mul =>
    rcases arith16_next h with ⟨d, hd, rfl⟩ | ⟨b, rfl, hn, rfl⟩
    · exact ⟨_, arith16_ok ((read16_setFlags s f src).trans hd)⟩
    · exact ⟨f, arith16_error (read16_unmapped (s := s.setFlags f) hn)⟩
  | div =>
    rcases div16_next h with ⟨d, hd, hz, hs, rfl⟩ | ⟨hd, rfl⟩ | ⟨b, rfl, hn, rfl⟩
    · exact ⟨_, div16_ok ((read16_setFlags s f src).trans hd) hs hz⟩
    · have hs : s.cfg.divSigned = false := unsigned_of_div16_next hd h
      exact ⟨f, div16_zero ((read16_setFlags s f src).trans hd) hs⟩
    · exact ⟨f, div16_error (read16_unmapped (s := s.setFlags f) hn)⟩

theorem mov8_setFlags {src : Src 8 Byte} {dst : Dst Byte} {len : Addr} {s t : State} (f : Flags)
    (h : mov8 src dst len s = .next t) : ∃ g, mov8 src dst len (s.setFlags f) = .next (t.setFlags g) := by
  rcases mov8_next h with ⟨v, l, u, hv, hl, hu, rfl⟩ | ⟨b, hb, hn, -⟩
  · have hnext : mov8 src dst len (s.setFlags f) = .next (((u.setFlags f).setFlags (f.setNZ v)).advance len) :=
      mov8_ok ((read8_setFlags s f src).trans hv) ((resolve8_setFlags s f dst).trans hl) (put8_setFlags f hu)
    exact ⟨f.setNZ v, hnext⟩
  · obtain ⟨c, hc⟩ := mov8_of_unmapped hb hn
    obtain rfl : s.takeFault (.illegalRegister c) = t := Host.Outcome.next.inj ((hc s.flags len).symm.trans h)
    exact ⟨f, hc f len⟩

theorem mov16_setFlags {src : Src 16 Byte} {dst : Dst Byte} {len : Addr} {s t : State} (f : Flags)
    (h : mov16 src dst len s = .next t) : ∃ g, mov16 src dst len (s.setFlags f) = .next (t.setFlags g) := by
  rcases mov16_next h with ⟨v, l, u, hv, hl, hu, rfl⟩ | ⟨b, hb, hn, -⟩
  · have hnext : mov16 src dst len (s.setFlags f) = .next (((u.setFlags f).setFlags (f.setNZ v)).advance len) :=
      mov16_ok ((read16_setFlags s f src).trans hv) ((resolve16_setFlags s f dst).trans hl) (put16_setFlags f hu)
    exact ⟨f.setNZ v, hnext⟩
  · obtain ⟨c, hc⟩ := mov16_of_unmapped hb hn
    obtain rfl : s.takeFault (.illegalRegister c) = t := Host.Outcome.next.inj ((hc s.flags len).symm.trans h)
    exact ⟨f, hc f len⟩

theorem setSwpNZ_setFlags (s : State) (f : Flags) (x y : Byte) :
    ∃ g, (s.setFlags f).setSwpNZ x y = (s.setSwpNZ x y).setFlags g := by
  unfold State.setSwpNZ
  rw [State.setFlags_cfg]
  cases s.cfg.swpNz with
  | r1 | r2 | any => exact ⟨_, rfl⟩

theorem swp_setFlags {r1 r2 : Byte} {s t : State} (f : Flags) (h : execSwp r1 r2 s = .next t) :
    ∃ g, execSwp r1 r2 (s.setFlags f) = .next (t.setFlags g) := by
  cases hx : s.cfg.reg8 r1 with
  | none =>
    obtain rfl : s.takeFault (.illegalRegister r1) = t := by simpa using (swp_first_unmapped hx).symm.trans h
    exact ⟨f, swp_first_unmapped (s := s.setFlags f) hx⟩
  | some x =>
    cases hy : s.cfg.reg8 r2 with
    | none =>
      obtain rfl : s.takeFault (.illegalRegister r2) = t := by simpa using (swp_second_unmapped hx hy).symm.trans h
      exact ⟨f, swp_second_unmapped (s := s.setFlags f) hx hy⟩
    | some y =>
      obtain ⟨g, hg⟩ := setSwpNZ_setFlags ((s.setReg8 x (s.regs.get y)).setReg8 y (s.regs.get x)) f
        (s.regs.get y) (s.regs.get x)
      obtain rfl := Host.Outcome.next.inj ((swp_ok hx hy).symm.trans h)
      refine ⟨g, (swp_ok (s := s.setFlags f) hx hy).trans ?_⟩
      exact congrArg (fun u : State => Host.Outcome.next (u.advance 3)) hg

/-- An operation run with other flags answers the same state but for the flags. -/
theorem Meaning.run_setFlags {m : Meaning} {s t : State} (f : Flags) (h : m.run s = .next t) :
    ∃ g, m.run (s.setFlags f) = .next (t.setFlags g) := by
  cases m with
  | nop | hcf =>
    obtain rfl := Host.Outcome.next.inj h
    exact ⟨f, rfl⟩
  | push =>
    obtain ⟨hram, rfl⟩ := push_next h
    exact ⟨_, push_ok (s := s.setFlags f) (access_eq_ok.mp hram)⟩
  | pop =>
    obtain ⟨hram, rfl⟩ := pop_next h
    exact ⟨_, pop_ok (s := s.setFlags f) (access_eq_ok.mp hram)⟩
  | swp r1 r2 => exact swp_setFlags f h
  | alu8 op src => exact alu8_setFlags f h
  | alu16 op src => exact alu16_setFlags f h
  | mov8 src dst => exact mov8_setFlags f h
  | mov16 src dst => exact mov16_setFlags f h

/-- Settles O49: every operation run with other flags answers the same but for the flags (`Meaning.run_setFlags`). -/
theorem noInstructionReadsFlags : Obligations.NoInstructionReadsFlags := by
  intro i s t f h
  rw [exec_eq_run] at h ⊢
  exact Meaning.run_setFlags f h

end Sys2Proof.Machine

/-! ## The arithmetic of a width (`40_arithmetic_logic.md` R101 to R104) -/

namespace Sys2Proof.Machine

theorem addW_res {w : Nat} (a d : BitVec w) : (addW a d).res = a + d := rfl

/-- The wrapped difference (R102). -/
theorem subW_res {w : Nat} (a d : BitVec w) : (subW a d).res = a - d := by
  have hneg : (a.toNat : Int) - d.toNat = a.toNat + -(d.toNat : Int) := by omega
  have hres : (subW a d).res = BitVec.ofInt w ((a.toNat : Int) - d.toNat) := rfl
  rw [hres, hneg, BitVec.ofInt_add, BitVec.ofInt_neg, BitVec.ofInt_natCast, BitVec.ofInt_natCast, BitVec.ofNat_toNat,
    BitVec.ofNat_toNat, BitVec.setWidth_eq, BitVec.setWidth_eq, BitVec.sub_eq_add_neg]

/-- The exact sum lies outside the signed range where both operands differ in sign from the result: the xor form of
R101. -/
theorem addW_o {w : Nat} (a d : BitVec w) : (addW a d).o = ((a ^^^ (a + d)) &&& (d ^^^ (a + d))).msb := by
  have hdef : (addW a d).o = a.saddOverflow d := by
    simp only [addW, signedOverflow, BitVec.saddOverflow]
    grind
  rw [hdef, BitVec.saddOverflow_eq, BitVec.msb_and, BitVec.msb_xor, BitVec.msb_xor]
  generalize a.msb = x, d.msb = y, (a + d).msb = z
  revert x y z
  decide

/-- The exact difference lies outside the signed range where the operands differ in sign and the result has not the
first one's: the xor form of R102. -/
theorem subW_o {w : Nat} (a d : BitVec w) : (subW a d).o = ((a ^^^ d) &&& (a ^^^ (a - d))).msb := by
  have hdef : (subW a d).o = a.ssubOverflow d := by
    simp only [subW, signedOverflow, BitVec.ssubOverflow]
    grind
  rw [hdef, BitVec.ssubOverflow_eq, BitVec.msb_and, BitVec.msb_xor, BitVec.msb_xor]
  generalize a.msb = x, d.msb = y, (a - d).msb = z
  revert x y z
  decide

/-- The exact product lies outside the signed range exactly where the wrapped product reads as another number (R103). -/
theorem mulW_o {w : Nat} (hw : 0 < w) (a d : BitVec w) : (mulW a d).o = decide ((a * d).toInt ≠ a.toInt * d.toInt) := by
  have hdef : (mulW a d).o = signedOverflow w (a.toInt * d.toInt) := rfl
  have hhalf : ((2 ^ w : Nat) : Int) = 2 * 2 ^ (w - 1) := by
    obtain ⟨v, rfl⟩ := Nat.exists_eq_succ_of_ne_zero hw.ne'
    simp [Int.pow_succ, mul_comm]
  rw [hdef, signedOverflow, decide_eq_decide]
  constructor
  · intro hout heq
    have hlow := BitVec.le_toInt (a * d)
    have hhigh := BitVec.toInt_lt (x := a * d)
    omega
  · intro hne
    by_contra hin
    refine hne ?_
    rw [BitVec.toInt_mul]
    refine Int.bmod_eq_of_le ?_ ?_
    · omega
    · omega

/-- The quotient and the remainder are the only ones (R104). -/
theorem quotW_remW_of_eq {w : Nat} {a d q r : BitVec w} (h : a.toNat = q.toNat * d.toNat + r.toNat)
    (hr : r.toNat < d.toNat) : (quotW a d).res = q ∧ remW a d = r := by
  obtain ⟨hq, hm⟩ : a.toNat / d.toNat = q.toNat ∧ a.toNat % d.toNat = r.toNat :=
    (Nat.div_mod_unique (by omega)).mpr ⟨by rw [h, Nat.mul_comm, Nat.add_comm], hr⟩
  simp [quotW, remW, hq, hm]

/-- Quotient times divisor plus remainder is the dividend, and the remainder is below the divisor (R104). -/
theorem quotW_mul_add_remW {w : Nat} (a : BitVec w) {d : BitVec w} (hd : d ≠ 0) :
    (quotW a d).res.toNat * d.toNat + (remW a d).toNat = a.toNat ∧ (remW a d).toNat < d.toNat := by
  have hpos : 0 < d.toNat := Nat.pos_of_ne_zero fun h => hd (BitVec.eq_of_toNat_eq h)
  have hq : (quotW a d).res = a / d := BitVec.udiv_def.symm
  have hr : remW a d = a % d := BitVec.umod_def.symm
  rw [hq, hr, BitVec.toNat_udiv, BitVec.toNat_umod]
  exact ⟨Nat.div_add_mod' a.toNat d.toNat, Nat.mod_lt _ hpos⟩

end Sys2Proof.Machine

/-! ## Arithmetic: results, flags and frame (`40_arithmetic_logic.md` R100 to R136) -/

namespace Sys2Proof.Machine

/-- Z and N of a byte, by its value (`10_state.md` R20, R21). -/
theorem setNZ_byte (f : Flags) (v : Byte) :
    f.setNZ v = { f with z := decide (v = 0), n := decide (128 ≤ v.toNat) } := by
  rw [Flags.setNZ, BitVec.msb_eq_decide]
  rfl

theorem setNZ_word (f : Flags) (v : Word) :
    f.setNZ v = { f with z := decide (v = 0), n := decide (32768 ≤ v.toNat) } := by
  rw [Flags.setNZ, BitVec.msb_eq_decide]
  rfl

/-- The flags after ADD, SUB or MUL are Z and N of the result and some C and O, under the default `FLAGS_ARITH` those of
the operation (R100). -/
theorem aluFlags_eq {w : Nat} (cfg : Config) (op : AluOp) (a d : BitVec w) (f : Flags) :
    ∃ c o, aluFlags cfg op a d f = (f.setNZ (aluW op a d).res).setCO c o ∧
      (cfg.flagsArith = .formulas → c = (aluW op a d).c ∧ o = (aluW op a d).o) := by
  unfold aluFlags
  split
  · exact ⟨_, _, rfl, fun _ => ⟨rfl, rfl⟩⟩
  · next hother => exact ⟨_, _, rfl, fun h => by rw [hother] at h; cases h⟩

/-- The flags after DIV leave P and I, and under the default `FLAGS_ARITH` are Z and N of the quotient and 0 (R104). -/
theorem divFlags_eq {w : Nat} (cfg : Config) (a d : BitVec w) (f : Flags) :
    ∃ z n c o, divFlags cfg a d f = { f with z := z, n := n, c := c, o := o } ∧
      (cfg.flagsArith = .formulas →
        z = (f.setNZ (quotW a d).res).z ∧ n = (f.setNZ (quotW a d).res).n ∧ c = false ∧ o = false) := by
  unfold divFlags
  split
  · exact ⟨_, _, _, _, rfl, fun _ => ⟨rfl, rfl, rfl, rfl⟩⟩
  · next hother => exact ⟨_, _, _, _, rfl, fun h => by rw [hother] at h; cases h⟩

/-! ### The four source forms of a family

A family whose operation answers `t` once Data is `v` answers it from each of the four sources. -/

theorem fromAnySource8 {F : Src 8 Byte → Addr → State → Host.Outcome State Fault Refusal} {s : State} {v : Byte}
    {imm : Byte → Instr} {abs ind : Addr → Instr} {reg : Byte → Instr} {lenB lenW : Addr} {t : Addr → State}
    (hF : ∀ src len, src.read8 s = .ok v → F src len s = .next (t len))
    (himm : exec (imm v) s = F (.imm v) lenB s) (habs : ∀ a, exec (abs a) s = F (.abs a) lenW s)
    (hind : ∀ a, exec (ind a) s = F (.ind a) lenW s) (hreg : ∀ b, exec (reg b) s = F (.reg b) lenB s) :
    FromAnySource8 s v imm abs ind reg lenB lenW t := by
  refine ⟨?_, fun a hram ha => ?_, fun a hram ha => ?_, fun b r hb hr => ?_⟩
  · rw [himm, hF _ _ (read8_imm s v)]
  · rw [habs, hF _ _ (ha ▸ read8_abs hram a)]
  · rw [hind, hF _ _ (ha ▸ read8_ind hram a)]
  · rw [hreg, hF _ _ (hr ▸ read8_reg hb)]

theorem fromAnySource16 {F : Src 16 Byte → Addr → State → Host.Outcome State Fault Refusal} {s : State} {v : Word}
    {imm : Word → Instr} {abs ind : Addr → Instr} {reg : Byte → Instr} {lenB lenW : Addr} {t : Addr → State}
    (hF : ∀ src len, src.read16 s = .ok v → F src len s = .next (t len))
    (himm : exec (imm v) s = F (.imm v) lenW s) (habs : ∀ a, exec (abs a) s = F (.abs a) lenW s)
    (hind : ∀ a, exec (ind a) s = F (.ind a) lenW s) (hreg : ∀ b, exec (reg b) s = F (.reg b) lenB s) :
    FromAnySource16 s v imm abs ind reg lenB lenW t := by
  refine ⟨?_, fun a hram ha => ?_, fun a hram ha => ?_, fun b r hb hr => ?_⟩
  · rw [himm, hF _ _ (read16_imm s v)]
  · rw [habs, hF _ _ (ha ▸ read16_abs hram a)]
  · rw [hind, hF _ _ (ha ▸ read16_ind hram a)]
  · rw [hreg, hF _ _ (hr ▸ read16_reg hb)]

/-! ### ADD, SUB and MUL -/

/-- ADD, SUB and MUL of Data `d`, whatever source it is read from: the whole next state, with C and O those of the
operation under the default `FLAGS_ARITH` (R100). -/
theorem arith8_whole (op : AluOp) (s : State) (d : Byte) :
    ∃ c o, (s.cfg.flagsArith = .formulas → c = (aluW op s.regs.a d).c ∧ o = (aluW op s.regs.a d).o) ∧
      ∀ src len, src.read8 s = .ok d →
        arith8 op src len s = .next (afterArith8 s (aluW op s.regs.a d).res c o len) := by
  obtain ⟨c, o, hflags, hco⟩ := aluFlags_eq s.cfg op (s.regs.get .a) d s.flags
  refine ⟨c, o, hco, fun src len hd => ?_⟩
  rw [arith8_ok hd, hflags, setNZ_byte]
  rfl

theorem arith16_whole (op : AluOp) (s : State) (d ab : Word) (hab : s.regs.getPair .ab = ab) :
    ∃ c o, (s.cfg.flagsArith = .formulas → c = (aluW op ab d).c ∧ o = (aluW op ab d).o) ∧
      ∀ src len, src.read16 s = .ok d →
        arith16 op src len s = .next (afterArith16 s (aluW op ab d).res c o len) := by
  subst hab
  obtain ⟨c, o, hflags, hco⟩ := aluFlags_eq s.cfg op (s.regs.getPair .ab) d s.flags
  refine ⟨c, o, hco, fun src len hd => ?_⟩
  rw [arith16_ok hd, hflags, setNZ_word]
  rfl

/-- Settles O15: the sum is `+` on words, and its overflow is the xor form (`addW_o`). -/
theorem addFormsComplete : Obligations.AddFormsComplete := by
  intro s d
  obtain ⟨c, o, hco, hwhole⟩ := arith8_whole .add s d
  refine ⟨c, o, fun hf => ?_, ?_⟩
  · obtain ⟨hc, ho⟩ := hco hf
    exact ⟨hc, ho.trans (addW_o s.regs.a d)⟩
  · exact fromAnySource8 hwhole rfl (fun _ => rfl) (fun _ => rfl) (fun _ => rfl)

/-- Settles O16, on AB. -/
theorem addxFormsComplete : Obligations.AddxFormsComplete := by
  intro s d ab hab
  obtain ⟨c, o, hco, hwhole⟩ := arith16_whole .add s d ab hab
  refine ⟨c, o, fun hf => ?_, ?_⟩
  · obtain ⟨hc, ho⟩ := hco hf
    exact ⟨hc, ho.trans (addW_o ab d)⟩
  · exact fromAnySource16 hwhole rfl (fun _ => rfl) (fun _ => rfl) (fun _ => rfl)

/-- Settles O17: the difference is `-` on words (`subW_res`), and its overflow is the xor form (`subW_o`). -/
theorem subFormsComplete : Obligations.SubFormsComplete := by
  intro s d
  obtain ⟨c, o, hco, hwhole⟩ := arith8_whole .sub s d
  refine ⟨c, o, fun hf => ?_, ?_⟩
  · obtain ⟨hc, ho⟩ := hco hf
    exact ⟨hc, ho.trans (subW_o s.regs.a d)⟩
  · rw [← subW_res]
    exact fromAnySource8 hwhole rfl (fun _ => rfl) (fun _ => rfl) (fun _ => rfl)

/-- Settles O18, on AB. -/
theorem subxFormsComplete : Obligations.SubxFormsComplete := by
  intro s d ab hab
  obtain ⟨c, o, hco, hwhole⟩ := arith16_whole .sub s d ab hab
  refine ⟨c, o, fun hf => ?_, ?_⟩
  · obtain ⟨hc, ho⟩ := hco hf
    exact ⟨hc, ho.trans (subW_o ab d)⟩
  · rw [← subW_res]
    exact fromAnySource16 hwhole rfl (fun _ => rfl) (fun _ => rfl) (fun _ => rfl)

/-- Settles O19: the low half of the product is `*` on words, and its overflow a signed misfit (`mulW_o`). -/
theorem mulFormsComplete : Obligations.MulFormsComplete := by
  intro s d
  obtain ⟨c, o, hco, hwhole⟩ := arith8_whole .mul s d
  refine ⟨c, o, fun hf => ?_, ?_⟩
  · obtain ⟨hc, ho⟩ := hco hf
    exact ⟨hc, ho.trans (mulW_o (by decide) s.regs.a d)⟩
  · exact fromAnySource8 hwhole rfl (fun _ => rfl) (fun _ => rfl) (fun _ => rfl)

/-- Settles O20, on AB. -/
theorem mulxFormsComplete : Obligations.MulxFormsComplete := by
  intro s d ab hab
  obtain ⟨c, o, hco, hwhole⟩ := arith16_whole .mul s d ab hab
  refine ⟨c, o, fun hf => ?_, ?_⟩
  · obtain ⟨hc, ho⟩ := hco hf
    exact ⟨hc, ho.trans (mulW_o (by decide) ab d)⟩
  · exact fromAnySource16 hwhole rfl (fun _ => rfl) (fun _ => rfl) (fun _ => rfl)

/-! ### DIV -/

theorem aluW_div {w : Nat} (a d : BitVec w) : aluW .div a d = quotW a d := rfl

theorem get_a (r : Regs) : r.get .a = r.a := rfl

/-- A divisor above a remainder is not 0. -/
theorem ne_zero_of_toNat_lt {w : Nat} {r d : BitVec w} (h : r.toNat < d.toNat) : d ≠ 0 := by
  rintro rfl
  simp at h

/-- Settles O21: the quotient and the remainder are the only ones (`quotW_remW_of_eq`). -/
theorem divFormsComplete : Obligations.DivFormsComplete := by
  intro s d q r hs hq hr
  obtain ⟨hquot, hrem⟩ := quotW_remW_of_eq hq hr
  obtain ⟨z, n, c, o, hflags, hformulas⟩ := divFlags_eq s.cfg s.regs.a d s.flags
  rw [hquot, setNZ_byte] at hformulas
  refine ⟨z, n, c, o, hformulas, fromAnySource8 (F := div8) (fun src len hd => ?_) rfl (fun _ => rfl) (fun _ => rfl)
    (fun _ => rfl)⟩
  rw [div8_ok hd hs (ne_zero_of_toNat_lt hr), get_a, hflags, hrem, aluW_div, hquot]
  rfl

/-- Settles O22, on AB and CD. -/
theorem divxFormsComplete : Obligations.DivxFormsComplete := by
  intro s d q r hs hq hr
  obtain ⟨hquot, hrem⟩ := quotW_remW_of_eq hq hr
  obtain ⟨z, n, c, o, hflags, hformulas⟩ := divFlags_eq s.cfg (s.regs.getPair .ab) d s.flags
  rw [hquot, setNZ_word] at hformulas
  refine ⟨z, n, c, o, hformulas, fromAnySource16 (F := div16) (fun src len hd => ?_) rfl (fun _ => rfl)
    (fun _ => rfl) (fun _ => rfl)⟩
  rw [div16_ok hd hs (ne_zero_of_toNat_lt hr), hflags, hrem, aluW_div, hquot]
  rfl

/-- Settles O23: from every source a zero divisor takes DivideByZero (`div8_zero`, `div16_zero`). -/
theorem zeroDivisorFaults : Obligations.ZeroDivisorFaults := fun _ hs =>
  ⟨fromAnySource8 (F := div8) (fun _ _ hd => div8_zero hd hs) rfl (fun _ => rfl) (fun _ => rfl)
    (fun _ => rfl),
   fromAnySource16 (F := div16) (fun _ _ hd => div16_zero hd hs) rfl (fun _ => rfl) (fun _ => rfl)
    (fun _ => rfl)⟩

/-- A well-formed instruction has no unmapped register byte (`30_encoding.md` R62). -/
theorem mapped_of_wf {cfg : Config} {i : Instr} (h : i.wf cfg = true) {x : RegOperand} (hx : x ∈ i.regOperands) :
    x.mapped cfg = true := List.all_eq_true.mp h x hx

theorem reg8_ne_none_of_mapped {cfg : Config} {b : Byte} (h : RegOperand.mapped cfg (.code8 b) = true) :
    cfg.reg8 b ≠ none := Option.isSome_iff_ne_none.mp h

theorem reg16_ne_none_of_mapped {cfg : Config} {b : Byte} (h : RegOperand.mapped cfg (.code16 b) = true) :
    cfg.reg16 b ≠ none := Option.isSome_iff_ne_none.mp h

/-- Settles O24: with its register byte mapped a division reads its Data, and is then refused (`div8_signed`). -/
theorem signedDivisionRefused : Obligations.SignedDivisionRefused := by
  intro s i w m hsigned hram hwf ho
  have hmapped : ∀ x ∈ (meaningOf i).regOperands, x.mapped s.cfg = true := fun x hx =>
    mapped_of_wf hwf (regOperands_meaningOf i ▸ hx)
  rw [exec_eq_run]
  rw [← opcode_meaningOf] at ho
  generalize meaningOf i = meaning at ho hmapped ⊢
  cases meaning with
  | nop | hcf | push | pop | swp | mov8 | mov16 => cases ho
  | alu8 op src =>
    obtain rfl : op = .div := by cases ho; rfl
    obtain ⟨d, hd⟩ : ∃ d, src.read8 s = .ok d := read8_of_mapped hram fun b hb =>
      reg8_ne_none_of_mapped (hmapped (.code8 b) (hb ▸ .head _))
    exact div8_signed hd hsigned
  | alu16 op src =>
    obtain rfl : op = .div := by cases ho; rfl
    obtain ⟨d, hd⟩ : ∃ d, src.read16 s = .ok d := read16_of_mapped hram fun b hb =>
      reg16_ne_none_of_mapped (hmapped (.code16 b) (hb ▸ .head _))
    exact div16_signed hd hsigned

/-- Settles O25: the register byte is decoded before Data is looked at (`read8_unmapped`). -/
theorem unmappedArithRegisterFaults : Obligations.UnmappedArithRegisterFaults := by
  rintro s t b rfl
  refine ⟨fun h => ?_, fun h => ?_⟩
  · have hread := read8_unmapped h
    exact ⟨arith8_error hread, arith8_error hread, arith8_error hread, div8_error hread⟩
  · have hread := read16_unmapped h
    exact ⟨arith16_error hread, arith16_error hread, arith16_error hread, div16_error hread⟩

/-! ### Arithmetic laws (`40_arithmetic_logic.md` section 4) -/

/-- Of two writes of a register the last one stays. -/
theorem set_set_same (r : Regs) (i : Reg8) (v u : Byte) : (r.set i v).set i u = r.set i u := by
  cases i <;> rfl

theorem set_get_same (r : Regs) (i : Reg8) : r.set i (r.get i) = r := by
  cases i <;> rfl

theorem setPair_setPair_same (r : Regs) (p : Reg16) (v u : Word) : (r.setPair p v).setPair p u = r.setPair p u := by
  cases p <;> rfl

/-- A pair written with its own value changes nothing. -/
theorem setPair_getPair_same (r : Regs) (p : Reg16) : r.setPair p (r.getPair p) = r := by
  refine Regs.ext_get fun i => ?_
  rw [get_setPair, Regs.getPair, hiByte_catBytes, loByte_catBytes]
  split
  · next h => rw [h]
  · split
    · next h => rw [h]
    · rfl

/-- Settles O37: the result of ADD is `A + d` and that of SUB takes `d` off it again (`subW_res`). -/
theorem subUndoesAdd : Obligations.SubUndoesAdd := by
  refine ⟨fun s d => ⟨_, _, arith8_ok (read8_imm s d), arith8_ok (read8_imm _ d), ?_⟩,
    fun s d => ⟨_, _, arith16_ok (read16_imm s d), arith16_ok (read16_imm _ d), ?_⟩⟩
  · simp [aluW, addW_res, subW_res, set_set_same, set_get_same]
  · simp [aluW, addW_res, subW_res, setPair_setPair_same, setPair_getPair_same]

/-- Settles O38: a division of a mapped divisor that is not 0 completes (`div8_ok`), and leaves the quotient and the
remainder of the divisor as it was read (`quotW_mul_add_remW`). -/
theorem divisionIdentity : Obligations.DivisionIdentity := by
  refine ⟨fun s t b r hb hne h => ?_, fun s t b r hb hne h => ?_⟩
  · have hs : s.cfg.divSigned = false := unsigned_of_div8_next (read8_reg hb) h
    obtain rfl := Host.Outcome.next.inj ((div8_ok (read8_reg hb) hs hne).symm.trans h)
    exact quotW_mul_add_remW s.regs.a hne
  · have hs : s.cfg.divSigned = false := unsigned_of_div16_next (read16_reg hb) h
    obtain rfl := Host.Outcome.next.inj ((div16_ok (read16_reg hb) hs hne).symm.trans h)
    have hab : ∀ q m : Word, ((s.regs.setPair .ab q).setPair .cd m).getPair .ab = q := fun q m => by
      rw [getPair_setPair_ne _ _ (by decide), getPair_setPair_same]
    simpa [hab, aluW_div] using quotW_mul_add_remW (s.regs.getPair .ab) hne

end Sys2Proof.Machine

/-! ## MOV and MOVX (`42_data_memory.md` R160 to R185) -/

namespace Sys2Proof.Machine

/-- MOV of `v` to memory at `q`, whatever source it is read from and whichever destination lies there: the whole next
state (R161). -/
theorem mov8_to_memory {s : State} {v : Byte} {dst : Dst Byte} {q : Addr} (hram : s.AllRam)
    (hdst : dst.resolve8 s = .ok (.mem q)) (src : Src 8 Byte) (len : Addr) (hv : src.read8 s = .ok v) :
    mov8 src dst len s = .next (afterMov8 s v s.regs (s.mem.write q v) len) := by
  rw [mov8_ok hv hdst (store8_ram hram q v), setNZ_byte]
  rfl

theorem mov16_to_memory {s : State} {v : Word} {dst : Dst Byte} {q : Addr} (hram : s.AllRam)
    (hdst : dst.resolve16 s = .ok (.mem q)) (src : Src 16 Byte) (len : Addr) (hv : src.read16 s = .ok v) :
    mov16 src dst len s = .next (afterMov16 s v s.regs (s.mem.write16 q v) len) := by
  rw [mov16_ok hv hdst (store16_ram hram q v), setNZ_word]
  rfl

/-- MOV of `v` to the register `r` (R161). -/
theorem mov8_to_register {s : State} {v b : Byte} {r : Reg8} (hb : s.cfg.reg8 b = some r) (src : Src 8 Byte)
    (len : Addr) (hv : src.read8 s = .ok v) :
    mov8 src (.reg b) len s = .next (afterMov8 s v (s.regs.set r v) s.mem len) := by
  rw [mov8_ok (u := s.setReg8 r v) hv (resolve8_reg hb) rfl, setNZ_byte]
  rfl

theorem mov16_to_pair {s : State} {v : Word} {b : Byte} {p : Reg16} (hb : s.cfg.reg16 b = some p) (src : Src 16 Byte)
    (len : Addr) (hv : src.read16 s = .ok v) :
    mov16 src (.reg b) len s = .next (afterMov16 s v (s.regs.setPair p v) s.mem len) := by
  rw [mov16_ok (u := s.setReg16 p v) hv (resolve16_reg hb) rfl, setNZ_word]
  rfl

/-- Settles O26: the destination lies at its address or where its pointer points before the write (`resolve8_abs`,
`resolve8_ind`). -/
theorem movToMemoryCompletes : Obligations.MovToMemoryCompletes := fun s _ d hram =>
  ⟨fromAnySource8 (mov8_to_memory hram (resolve8_abs s d)) rfl (fun _ => rfl) (fun _ => rfl) (fun _ => rfl),
   fromAnySource8 (mov8_to_memory hram (resolve8_ind hram d)) rfl (fun _ => rfl) (fun _ => rfl) (fun _ => rfl)⟩

/-- Settles O27: the register file is the one in which the destination alone is new (`Regs.ext_get`). -/
theorem movToRegisterCompletes : Obligations.MovToRegisterCompletes := by
  intro s v b r regs hb hregs
  obtain rfl : regs = s.regs.set r v := Regs.ext_get fun q => by rw [hregs, get_set]
  exact fromAnySource8 (mov8_to_register hb) rfl (fun _ => rfl) (fun _ => rfl) (fun _ => rfl)

/-- Settles O28: a 16-bit write is its two byte writes, high byte first, at the place the destination lies
(`resolve16_abs`, `resolve16_ind`). -/
theorem movxToMemoryCompletes : Obligations.MovxToMemoryCompletes := by
  rintro s v d q hram rfl
  exact ⟨fromAnySource16 (mov16_to_memory hram (resolve16_abs s d)) rfl (fun _ => rfl) (fun _ => rfl) (fun _ => rfl),
    fromAnySource16 (mov16_to_memory hram (resolve16_ind hram d)) rfl (fun _ => rfl) (fun _ => rfl) (fun _ => rfl)⟩

/-- No pair has one register twice. -/
theorem pairHigh_ne_pairLow (p : Reg16) : pairHigh p ≠ pairLow p := by cases p <;> decide

/-- Settles O29: a pair write changes its two halves alone (`get_setPair`). -/
theorem movxToPairCompletes : Obligations.MovxToPairCompletes := by
  intro s v b p regs hb hregs
  obtain rfl : regs = s.regs.setPair p v := Regs.ext_get fun q => by
    rw [hregs, get_setPair]
    by_cases hq : q = pairHigh p
    · rw [if_pos hq, if_neg (hq ▸ pairHigh_ne_pairLow p), if_pos hq]
    · rw [if_neg hq, if_neg hq]
  exact fromAnySource16 (mov16_to_pair hb) rfl (fun _ => rfl) (fun _ => rfl) (fun _ => rfl)

/-- Settles O30: register bytes are decoded before any memory is read, the source's first (`mov8_src_unmapped`,
`mov8_dst_unmapped`, `swp_first_unmapped`). -/
theorem unmappedMoveRegisterFaults : Obligations.UnmappedMoveRegisterFaults := by
  intro s b1 b2 fault hfault
  obtain rfl : fault = fun b => s.takeFault (.illegalRegister b) := funext hfault
  refine ⟨fun h => ?_, fun h1 h2 => ?_, fun h => ?_, fun h1 h2 => ?_⟩
  · have hdst : ∀ {src : Src 8 Byte} {len : Addr}, (∀ c, src ≠ .reg c) →
        mov8 src (.reg b1) len s = .next (s.takeFault (.illegalRegister b1)) :=
      fun hsrc => mov8_dst_unmapped (fun c hc => absurd hc (hsrc c)) h
    exact ⟨fun d => ⟨mov8_src_unmapped h, mov8_src_unmapped h⟩, mov8_src_unmapped h, swp_first_unmapped h,
      fun v => hdst nofun, fun a => ⟨hdst nofun, hdst nofun⟩⟩
  · obtain ⟨x, hx⟩ := Option.ne_none_iff_exists'.mp h1
    refine ⟨mov8_dst_unmapped (fun c hc => ?_) h2, swp_second_unmapped hx h2⟩
    cases hc
    exact h1
  · have hdst : ∀ {src : Src 16 Byte} {len : Addr}, (∀ c, src ≠ .reg c) →
        mov16 src (.reg b1) len s = .next (s.takeFault (.illegalRegister b1)) :=
      fun hsrc => mov16_dst_unmapped (fun c hc => absurd hc (hsrc c)) h
    exact ⟨fun d => ⟨mov16_src_unmapped h, mov16_src_unmapped h⟩, mov16_src_unmapped h,
      fun v => hdst nofun, fun a => ⟨hdst nofun, hdst nofun⟩⟩
  · refine mov16_dst_unmapped (fun c hc => ?_) h2
    cases hc
    exact h1

/-! ### Copies from memory to memory -/

/-- The two bytes of a 16-bit write (`20_memory.md` R34). -/
theorem read_write16_high (m : Memory) (a : Addr) (v : Word) : (m.write16 a v).read a = hiByte v :=
  (read_write_ne _ _ (addr_ne_succ a)).trans (read_write_same m a (hiByte v))

theorem read_write16_low (m : Memory) (a : Addr) (v : Word) : (m.write16 a v).read (a + 1) = loByte v :=
  read_write_same _ _ _

/-- What a memory source reads if the memory map lets it: the bytes at its address, or where its pointer points. -/
theorem read16_abs_eq {s : State} {a : Addr} {v : Word} (h : Src.read16 s (.abs a) = .ok v) : v = s.mem.read16 a :=
  (load16_eq_ok.mp h).2

theorem read16_ind_eq {s : State} {a : Addr} {v : Word} (h : Src.read16 s (.ind a) = .ok v) :
    v = s.mem.read16 (s.mem.read16 a) := by
  obtain ⟨p, hp, hv⟩ := (bind_eq_ok _ _ _).mp (read16_of_decode (src := .ind a) rfl ▸ h)
  rw [(load16_eq_ok.mp hv).2, (load16_eq_ok.mp hp).2]

/-- Where a memory destination lies if the memory map lets its pointer be read. -/
theorem resolve16_abs_eq {s : State} {a : Addr} {l : Loc Reg16} (h : Dst.resolve16 s (.abs a) = .ok l) : l = .mem a :=
  (Except.ok.inj h).symm

theorem resolve16_ind_eq {s : State} {a : Addr} {l : Loc Reg16} (h : Dst.resolve16 s (.ind a) = .ok l) :
    l = .mem (s.mem.read16 a) := by
  obtain ⟨q, hq, hl⟩ := (bind_eq_ok _ _ _).mp (resolve16_of_decode (dst := .ind a) rfl ▸ h)
  rw [← (load16_eq_ok.mp hq).2]
  exact (Except.ok.inj hl).symm

/-- A MOVX between two places in memory that answers a next state has stored at `q` the word that stood at `p`. -/
theorem mov16_copies {src : Src 16 Byte} {dst : Dst Byte} {len p q : Addr} {s t : State}
    (hsrc : ∀ v, src.read16 s = .ok v → v = s.mem.read16 p) (hdst : ∀ l, dst.resolve16 s = .ok l → l = .mem q)
    (hreg : ∀ b, src ≠ .reg b ∧ dst ≠ .reg b) (h : mov16 src dst len s = .next t) :
    t.mem = s.mem.write16 q (s.mem.read16 p) := by
  rcases mov16_next h with ⟨v, l, u, hv, hl, hu, rfl⟩ | ⟨b, hb, -, -⟩
  · obtain rfl := hsrc v hv
    obtain rfl := hdst l hl
    rcases put16_eq_ok.mp hu with ⟨a, ha, -, rfl⟩ | ⟨r, hr, -⟩
    · cases ha
      rfl
    · cases hr
  · obtain ⟨hnsrc, hndst⟩ := hreg b
    exact absurd hb (not_or.mpr ⟨hnsrc, hndst⟩)

/-- Settles O31: in each form the word read before the write is stored (`mov16_copies`), so its two bytes are those the
source held. -/
theorem movxCopiesOverlappingBytes : Obligations.MovxCopiesOverlappingBytes := by
  intro s t p q i hi h
  have hmem : t.mem = s.mem.write16 q (s.mem.read16 p) := by
    rcases hi with rfl | ⟨a, rfl, rfl⟩ | ⟨d, rfl, rfl⟩ | ⟨a, d, rfl, rfl, rfl⟩
    · exact mov16_copies (fun _ => read16_abs_eq) (fun _ => resolve16_abs_eq) (fun _ => ⟨nofun, nofun⟩) h
    · exact mov16_copies (fun _ => read16_ind_eq) (fun _ => resolve16_abs_eq) (fun _ => ⟨nofun, nofun⟩) h
    · exact mov16_copies (fun _ => read16_abs_eq) (fun _ => resolve16_ind_eq) (fun _ => ⟨nofun, nofun⟩) h
    · exact mov16_copies (fun _ => read16_ind_eq) (fun _ => resolve16_ind_eq) (fun _ => ⟨nofun, nofun⟩) h
  rw [hmem]
  refine ⟨?_, ?_, fun x hx hx1 => read_write16_ne s.mem _ hx hx1⟩
  · rw [read_write16_high, Memory.read16, hiByte_catBytes]
  · rw [read_write16_low, Memory.read16, loByte_catBytes]

end Sys2Proof.Machine

/-! ## SWP, PUSH and POP (`42_data_memory.md` R186 to R188) -/

namespace Sys2Proof.Machine

/-- What SWP's flag write writes, by `SWP_NZ` (R186). -/
theorem setSwpNZ_eq (s : State) (x y : Byte) :
    ∃ z n k, s.setSwpNZ x y = { s with flags := { s.flags with z := z, n := n }, draws := k } ∧
      (s.cfg.swpNz = .r1 → z = decide (x = 0) ∧ n = decide (128 ≤ x.toNat) ∧ k = s.draws) ∧
      (s.cfg.swpNz = .r2 → z = decide (y = 0) ∧ n = decide (128 ≤ y.toNat) ∧ k = s.draws) := by
  unfold State.setSwpNZ
  rw [setNZ_byte, setNZ_byte]
  cases s.cfg.swpNz with
  | r1 => exact ⟨_, _, _, rfl, fun _ => ⟨rfl, rfl, rfl⟩, nofun⟩
  | r2 => exact ⟨_, _, _, rfl, nofun, fun _ => ⟨rfl, rfl, rfl⟩⟩
  | any => exact ⟨_, _, _, rfl, nofun, nofun⟩

/-- Two registers exchanged. -/
def Regs.swap (r : Regs) (x y : Reg8) : Regs := (r.set x (r.get y)).set y (r.get x)

/-- The exchange register by register, the same register twice included. -/
theorem get_swap (r : Regs) (x y q : Reg8) :
    (r.swap x y).get q = if q = x then r.get y else if q = y then r.get x else r.get q := by
  rw [Regs.swap, get_set, get_set]
  by_cases hqx : q = x
  · by_cases hqy : q = y
    · rw [if_pos hqy, if_pos hqx, ← hqx, ← hqy]
    · rw [if_neg hqy, if_pos hqx, if_pos hqx]
  · rw [if_neg hqx, if_neg hqx]

/-- Exchanging twice changes nothing. -/
theorem swap_swap (r : Regs) (x y : Reg8) : (r.swap x y).swap x y = r := by
  refine Regs.ext_get fun q => ?_
  simp only [get_swap]
  by_cases hqx : q = x
  · subst hqx
    by_cases hyq : y = q <;> simp [hyq]
  · by_cases hqy : q = y
    · subst hqy
      simp [hqx]
    · simp [hqx, hqy]

/-- Settles O32: the registers are the exchanged ones (`get_swap`), and the flag write is as `SWP_NZ` says
(`setSwpNZ_eq`). -/
theorem swpCompletes : Obligations.SwpCompletes := by
  intro s b1 b2 x y hx hy
  obtain ⟨z, n, k, hstate, h1, h2⟩ :=
    setSwpNZ_eq ((s.setReg8 x (s.regs.get y)).setReg8 y (s.regs.get x)) (s.regs.get y) (s.regs.get x)
  refine ⟨s.regs.swap x y, z, n, k, get_swap s.regs x y, h1, h2, ?_⟩
  rw [exec_swp, swp_ok hx hy, hstate]
  rfl

/-- Settles O33: its one access is at SP + 1 (`push_ok`). -/
theorem pushCompletes : Obligations.PushCompletes := by
  intro s hram
  rw [exec_push, push_ok hram, setNZ_byte]
  rfl

/-- Settles O34: its one access is at SP (`pop_ok`). -/
theorem popCompletes : Obligations.PopCompletes := by
  rintro s v hram rfl
  rw [exec_pop, pop_ok hram, setNZ_byte]
  rfl

/-- Settles O35: PUSH stores A at SP + 1 and leaves SP there, so POP loads that byte and takes SP back. -/
theorem popUndoesPush : Obligations.PopUndoesPush := by
  intro s hram
  refine ⟨_, _, push_ok (hram _), pop_ok (hram _), ?_, ?_, rfl, ?_, fun x hx => ?_⟩
  · simp [set_get_same]
  · simp
  · exact read_write_same _ _ _
  · exact read_write_ne _ _ hx

@[simp] theorem setSwpNZ_regs (s : State) (x y : Byte) : (s.setSwpNZ x y).regs = s.regs := by
  obtain ⟨z, n, k, h⟩ := setSwpNZ_frame s x y
  rw [h]

@[simp] theorem setSwpNZ_mem (s : State) (x y : Byte) : (s.setSwpNZ x y).mem = s.mem := by
  obtain ⟨z, n, k, h⟩ := setSwpNZ_frame s x y
  rw [h]

@[simp] theorem setSwpNZ_cfg (s : State) (x y : Byte) : (s.setSwpNZ x y).cfg = s.cfg := by
  obtain ⟨z, n, k, h⟩ := setSwpNZ_frame s x y
  rw [h]

/-- What a later SWP reads of the state an SWP leaves. -/
theorem swp_exchanges {b1 b2 : Byte} {x y : Reg8} {s : State} (hx : s.cfg.reg8 b1 = some x)
    (hy : s.cfg.reg8 b2 = some y) :
    ∃ t, exec (.swp b1 b2) s = .next t ∧ t.regs = s.regs.swap x y ∧ t.mem = s.mem ∧ t.cfg = s.cfg :=
  ⟨_, swp_ok hx hy, by simp [Regs.swap], by simp, by simp⟩

/-- Settles O36: the second exchange undoes the first (`swap_swap`), and neither writes memory. -/
theorem swpTwiceRestores : Obligations.SwpTwiceRestores := by
  intro s b1 b2 hwf
  obtain ⟨x, hx⟩ : ∃ x, s.cfg.reg8 b1 = some x := Option.isSome_iff_exists.mp (mapped_of_wf hwf (.head _))
  obtain ⟨y, hy⟩ : ∃ y, s.cfg.reg8 b2 = some y := Option.isSome_iff_exists.mp (mapped_of_wf hwf (.tail _ (.head _)))
  obtain ⟨t, ht, hregs, hmem, hcfg⟩ := swp_exchanges hx hy
  rw [← hcfg] at hx hy
  obtain ⟨u, hu, hregs', hmem', -⟩ := swp_exchanges hx hy
  exact ⟨t, u, ht, hu, by rw [hregs', hregs, swap_swap], hmem'.trans hmem⟩

end Sys2Proof.Machine

/-! ## Registers, the status register, memory and `INIT` -/

namespace Sys2Proof.Machine

/-- Settles O55: a pair is its two registers (`catBytes_toNat`), and its halves lie in no other pair. -/
theorem pairsAreViews : Obligations.PairsAreViews := by
  refine ⟨fun r => ⟨catBytes_toNat _ _, catBytes_toNat _ _, catBytes_toNat _ _, catBytes_toNat _ _⟩,
    fun r p q v => ?_, fun r p v => ⟨?_, ?_⟩⟩
  · by_cases hqp : q = p
    · rw [if_pos hqp, hqp, getPair_setPair_same]
    · rw [if_neg hqp, getPair_setPair_ne r v hqp]
  · rw [Regs.getPair, hiByte_catBytes, get_set_same]
  · rw [Regs.getPair, loByte_catBytes, get_set_same]

/-- Settles O56: the two bytes of an access lie at two addresses, also at the wrap (`addr_ne_succ`). -/
theorem mixedWidthAccesses : Obligations.MixedWidthAccesses := by
  refine fun m a => ⟨fun v => ⟨read_write16_high m a v, read_write16_low m a v, read16_write16_same m a v,
    fun x hx hx1 => read_write16_ne m v hx hx1⟩, fun h l => ?_⟩
  have hbytes : ((m.write a h).write (a + 1) l).read16 a = catBytes h l := by
    rw [Memory.read16, read_write_same]
    exact congrArg (catBytes · l) ((read_write_succ _ a l).trans (read_write_same m a h))
  rw [hbytes, catBytes_toNat]

/-- Settles O53: `State.init` copies its argument, and the reset `INIT` is the model's own closed data. -/
theorem initIsWhatTheHostPlaced : Obligations.InitIsWhatTheHostPlaced := by
  refine ⟨fun cfg i => ⟨rfl, rfl, rfl, rfl, rfl, rfl, rfl⟩, rfl, rfl, rfl, fun r => ?_, rfl, fun a => rfl⟩
  cases r <;> rfl

/-- The byte view is six bits under the argument's two; bit 0 is the last one appended (`10_state.md` R18). -/
theorem getLsbD_append_ofBool {w : Nat} (x : BitVec w) (b : Bool) (k : Nat) :
    (x ++ BitVec.ofBool b).getLsbD k = if k = 0 then b else x.getLsbD (k - 1) := by
  rw [BitVec.getLsbD_append]
  cases k with
  | zero => simp
  | succ k => simp

/-- Settles O54: each flag is one bit appended below those before it (`getLsbD_append_ofBool`). -/
theorem statusRegisterLayout : Obligations.StatusRegisterLayout := by
  intro f x
  unfold Flags.statusByte
  simp only [getLsbD_append_ofBool]
  exact ⟨rfl, rfl, rfl, rfl, rfl, rfl, rfl, rfl⟩

/-! ### The canonical form of memory (entry 5) -/

/-- A list of cells reads as unlisted below its first address. -/
theorem readAt_of_lt {m : Memory} {a : Nat} (h : ∀ c ∈ m, a < c.1) : m.readAt a = unlistedByte := by
  induction m with
  | nil => rfl
  | cons c m ih =>
    obtain ⟨k, v⟩ := c
    have hk : a < k := h (k, v) (.head _)
    rw [readAt_cons, if_neg (by omega)]
    exact ih fun c hc => h c (.tail _ hc)

/-- The canonical form of a list is that of its tail, above its first cell, whose byte is listed for a reason. -/
theorem wf_cons {k : Nat} {v : Byte} {m : Memory} :
    Memory.wf ((k, v) :: m) = true ↔
      m.wf = true ∧ (∀ c ∈ m, k < c.1) ∧ k < 65536 ∧ v ≠ unlistedByte := by
  simp only [wf_iff, List.pairwise_cons, List.forall_mem_cons]
  tauto

/-- A canonical list reads at its first address unlike every list whose addresses are higher. -/
theorem readAt_first_ne {a : Nat} {v : Byte} {m k : Memory} (hm : Memory.wf ((a, v) :: m) = true)
    (hk : ∀ c ∈ k, a < c.1) : Memory.readAt ((a, v) :: m) a ≠ k.readAt a := by
  obtain ⟨-, -, -, hv⟩ := wf_cons.mp hm
  rwa [readAt_cons, if_pos rfl, readAt_of_lt hk]

/-- The addresses of a canonical list lie above whatever lies below its first one. -/
theorem lt_of_lt_first {a b : Nat} {u : Byte} {k : Memory} (hk : Memory.wf ((b, u) :: k) = true) (hab : a < b) :
    ∀ c ∈ (b, u) :: k, a < c.1 := by
  obtain ⟨-, hkb, -, -⟩ := wf_cons.mp hk
  exact List.forall_mem_cons.mpr ⟨hab, fun c hc => hab.trans (hkb c hc)⟩

/-- Canonical lists that read alike at every place are equal: their first addresses are the same, as the lower one would
read unlisted in the other list (`readAt_first_ne`); so are the bytes there, and the tails read alike. -/
theorem eq_of_readAt_eq {m k : Memory} (hm : m.wf = true) (hk : k.wf = true)
    (h : ∀ a, a < 65536 → m.readAt a = k.readAt a) : m = k := by
  induction m generalizing k with
  | nil =>
    cases k with
    | nil => rfl
    | cons c k =>
      obtain ⟨-, -, hb, -⟩ := wf_cons.mp hk
      exact absurd (h c.1 hb).symm (readAt_first_ne hk nofun)
  | cons c m ih =>
    obtain ⟨a, v⟩ := c
    obtain ⟨hmtail, hma, ha, -⟩ := wf_cons.mp hm
    cases k with
    | nil => exact absurd (h a ha) (readAt_first_ne hm nofun)
    | cons d k =>
      obtain ⟨b, u⟩ := d
      obtain ⟨hktail, hkb, hb, -⟩ := wf_cons.mp hk
      rcases Nat.lt_trichotomy a b with hab | rfl | hba
      · exact absurd (h a ha) (readAt_first_ne hm (lt_of_lt_first hk hab))
      · have hbyte : v = u := by simpa [readAt_cons] using h a ha
        have htails : ∀ x, x < 65536 → Memory.readAt m x = Memory.readAt k x := fun x hx => by
          by_cases hxa : a = x
          · subst hxa
            rw [readAt_of_lt hma, readAt_of_lt hkb]
          · simpa [readAt_cons, hxa] using h x hx
        rw [hbyte, ih hmtail hktail htails]
      · exact absurd (h b hb).symm (readAt_first_ne hk (lt_of_lt_first hm hba))

/-- Settles O57: every place of a canonical list is an address, so the lists read alike at every place. -/
theorem canonicalMemoriesAreExtensional : Obligations.CanonicalMemoriesAreExtensional := by
  intro m k hm hk h
  refine eq_of_readAt_eq hm hk fun a ha => ?_
  simpa [Memory.read, Nat.mod_eq_of_lt ha] using h (BitVec.ofNat 16 a)

end Sys2Proof.Machine

/-! ## A memory map that stops an access (`20_memory.md` R38, R39) -/

namespace Sys2Proof.Machine

/-- An access `MEM_MAP` stops answers by the kind it gives the address: a fault outcome or a refusal (entry 12). -/
theorem access_error_of_kindAt {s : State} {a : Addr} {k : MemKind} {out : Host.Outcome State Fault Refusal}
    (hk : (k = .absent ∧ out = .fault (.absentAddress a)) ∨ (k = .device ∧ out = .refused (.deviceAddress a)))
    (ha : s.cfg.kindAt a = k) : ∃ e, s.access a = .error e ∧ s.stop e = out := by
  unfold State.access
  rcases hk with ⟨rfl, rfl⟩ | ⟨rfl, rfl⟩
  · exact ⟨_, by rw [ha], rfl⟩
  · exact ⟨_, by rw [ha], rfl⟩

/-- A 16-bit access stops where its first byte does. -/
theorem accessFrom_two_error {s : State} {a : Addr} {e : Stop} (h : s.access a = .error e) :
    s.accessFrom a 2 = .error e := by
  simp [State.accessFrom, h]

theorem load8_error {s : State} {a : Addr} {e : Stop} (h : s.access a = .error e) : s.load8 a = .error e := by
  simp [State.load8, h]

theorem load16_error {s : State} {a : Addr} {e : Stop} (h : s.access a = .error e) : s.load16 a = .error e := by
  simp [State.load16, accessFrom_two_error h]

theorem store8_error {s : State} {a : Addr} {e : Stop} (h : s.access a = .error e) (v : Byte) :
    s.store8 a v = .error e := by
  simp [State.store8, h]

theorem store16_error {s : State} {a : Addr} {e : Stop} (h : s.access a = .error e) (v : Word) :
    s.store16 a v = .error e := by
  simp [State.store16, accessFrom_two_error h]

/-! ### Operands at a stopped address: Absolute by its own access, Indirect by the access of its pointer -/

theorem read8_abs_error {s : State} {a : Addr} {e : Stop} (h : s.access a = .error e) :
    Src.read8 s (.abs a) = .error e := load8_error h

theorem read8_ind_error {s : State} {a : Addr} {e : Stop} (h : s.access a = .error e) :
    Src.read8 s (.ind a) = .error e := by
  simp [Src.read8, Src.decode, Src.value8, load16_error h]

theorem read16_abs_error {s : State} {a : Addr} {e : Stop} (h : s.access a = .error e) :
    Src.read16 s (.abs a) = .error e := load16_error h

theorem read16_ind_error {s : State} {a : Addr} {e : Stop} (h : s.access a = .error e) :
    Src.read16 s (.ind a) = .error e := by
  simp [Src.read16, Src.decode, Src.value16, load16_error h]

theorem write8_abs_error {s : State} {a : Addr} {e : Stop} (h : s.access a = .error e) (v : Byte) :
    (Dst.resolve8 s (.abs a) >>= s.put8 v) = .error e := store8_error h v

theorem write8_ind_error {s : State} {a : Addr} {e : Stop} (h : s.access a = .error e) (v : Byte) :
    (Dst.resolve8 s (.ind a) >>= s.put8 v) = .error e := by
  simp [Dst.resolve8, Dst.decode, Dst.place, load16_error h]

theorem write16_abs_error {s : State} {a : Addr} {e : Stop} (h : s.access a = .error e) (v : Word) :
    (Dst.resolve16 s (.abs a) >>= s.put16 v) = .error e := store16_error h v

theorem write16_ind_error {s : State} {a : Addr} {e : Stop} (h : s.access a = .error e) (v : Word) :
    (Dst.resolve16 s (.ind a) >>= s.put16 v) = .error e := by
  simp [Dst.resolve16, Dst.decode, Dst.place, load16_error h]

/-- A MOV whose destination decodes stops where its source does (`00_scope.md` R7). -/
theorem mov8_error_of_read {src : Src 8 Byte} {dst : Dst Byte} {len : Addr} {s : State} {e : Stop}
    (hdst : ∃ p, dst.decode s.reg8 = .ok p) (h : src.read8 s = .error e) : mov8 src dst len s = s.stop e := by
  obtain ⟨p, hp⟩ := hdst
  rcases (bind_eq_error _ _ _).mp h with ho | ⟨o, ho, hv⟩
  · simp [mov8, ho]
  · simp [mov8, ho, hp, hv]

/-- A MOVX whose destination decodes stops where its source does (`00_scope.md` R7). -/
theorem mov16_error_of_read {src : Src 16 Byte} {dst : Dst Byte} {len : Addr} {s : State} {e : Stop}
    (hdst : ∃ p, dst.decode s.reg16 = .ok p) (h : src.read16 s = .error e) : mov16 src dst len s = s.stop e := by
  obtain ⟨p, hp⟩ := hdst
  rcases (bind_eq_error _ _ _).mp h with ho | ⟨o, ho, hv⟩
  · simp [mov16, ho]
  · simp [mov16, ho, hp, hv]

/-- A MOV whose source is read stops where its write does. -/
theorem mov8_error_of_write {src : Src 8 Byte} {dst : Dst Byte} {len : Addr} {s : State} {v : Byte} {e : Stop}
    (hv : src.read8 s = .ok v) (h : (dst.resolve8 s >>= s.put8 v) = .error e) : mov8 src dst len s = s.stop e := by
  obtain ⟨o, ho, hv⟩ := (bind_eq_ok _ _ _).mp hv
  rcases (bind_eq_error _ _ _).mp h with hl | ⟨l, hl, hput⟩
  · rcases (bind_eq_error _ _ _).mp hl with hp | ⟨p, hp, hplace⟩
    · simp [mov8, ho, hp]
    · simp [mov8, ho, hp, hv, hplace]
  · obtain ⟨p, hp, hplace⟩ := (bind_eq_ok _ _ _).mp hl
    simp [mov8, ho, hp, hv, hplace, hput]

/-- A MOVX whose source is read stops where its write does. -/
theorem mov16_error_of_write {src : Src 16 Byte} {dst : Dst Byte} {len : Addr} {s : State} {v : Word} {e : Stop}
    (hv : src.read16 s = .ok v) (h : (dst.resolve16 s >>= s.put16 v) = .error e) : mov16 src dst len s = s.stop e := by
  obtain ⟨o, ho, hv⟩ := (bind_eq_ok _ _ _).mp hv
  rcases (bind_eq_error _ _ _).mp h with hl | ⟨l, hl, hput⟩
  · rcases (bind_eq_error _ _ _).mp hl with hp | ⟨p, hp, hplace⟩
    · simp [mov16, ho, hp]
    · simp [mov16, ho, hp, hv, hplace]
  · obtain ⟨p, hp, hplace⟩ := (bind_eq_ok _ _ _).mp hl
    simp [mov16, ho, hp, hv, hplace, hput]

theorem push_error {s : State} {e : Stop} (h : s.access (s.sp + 1) = .error e) : execPush s = s.stop e := by
  have hstore : (s.setSp (s.sp + 1)).store8 (s.sp + 1) (s.regs.get .a) = .error e :=
    store8_error (s := s.setSp (s.sp + 1)) h _
  simp only [execPush, hstore, error_bind, finish_error]

theorem pop_error {s : State} {e : Stop} (h : s.access s.sp = .error e) : execPop s = s.stop e := by
  simp [execPop, load8_error h]

/-- The fetch of an opcode is an access like any other (`20_memory.md` R44). -/
theorem step_error {s : State} {e : Stop} (hrun : s.run = .running) (h : s.access s.pc = .error e) :
    step s = s.stop e := by
  have hfetch : s.fetchInstr = .error e := by simp [State.fetchInstr, h]
  simp [step, hrun, hfetch]

/-- A mapped register byte decodes. -/
theorem dst_decode_reg8 {s : State} {b : Byte} (h : s.cfg.reg8 b ≠ none) :
    ∃ p, Dst.decode s.reg8 (.reg b) = .ok p := by
  obtain ⟨r, hr⟩ := Option.ne_none_iff_exists'.mp h
  exact ⟨.reg r, by simp [Dst.decode, reg8_eq_ok.mpr hr]⟩

theorem dst_decode_reg16 {s : State} {b : Byte} (h : s.cfg.reg16 b ≠ none) :
    ∃ p, Dst.decode s.reg16 (.reg b) = .ok p := by
  obtain ⟨r, hr⟩ := Option.ne_none_iff_exists'.mp h
  exact ⟨.reg r, by simp [Dst.decode, reg16_eq_ok.mpr hr]⟩

/-- Settles O58: each form stops at its first access: an arithmetic form and a move from memory at the source, a move of
an immediate or a register at the destination, PUSH, POP and the fetch at their one access. -/
theorem memMapStopsAccesses : Obligations.MemMapStopsAccesses := by
  intro s a k out hk ha
  obtain ⟨e, he, rfl⟩ := access_error_of_kindAt hk ha
  have abs8 := read8_abs_error he
  have ind8 := read8_ind_error he
  have abs16 := read16_abs_error he
  have ind16 := read16_ind_error he
  refine ⟨arith8_error abs8, arith8_error ind8, arith16_error abs16, arith16_error ind16,
    arith8_error abs8, arith8_error ind8, arith16_error abs16, arith16_error ind16,
    arith8_error abs8, arith8_error ind8, arith16_error abs16, arith16_error ind16,
    div8_error abs8, div8_error ind8, div16_error abs16, div16_error ind16,
    fun v => ?_, fun v => ?_, fun d => ?_, fun b hb => ?_, fun b hb => ?_, ?_, ?_, ?_⟩
  · have hv := read8_imm s v
    exact ⟨mov8_error_of_write hv (write8_abs_error he v), mov8_error_of_write hv (write8_ind_error he v)⟩
  · have hv := read16_imm s v
    exact ⟨mov16_error_of_write hv (write16_abs_error he v), mov16_error_of_write hv (write16_ind_error he v)⟩
  · exact ⟨mov8_error_of_read ⟨_, rfl⟩ abs8, mov8_error_of_read ⟨_, rfl⟩ ind8, mov8_error_of_read ⟨_, rfl⟩ abs8,
      mov8_error_of_read ⟨_, rfl⟩ ind8, mov16_error_of_read ⟨_, rfl⟩ abs16, mov16_error_of_read ⟨_, rfl⟩ ind16,
      mov16_error_of_read ⟨_, rfl⟩ abs16, mov16_error_of_read ⟨_, rfl⟩ ind16⟩
  · obtain ⟨r, hr⟩ := Option.ne_none_iff_exists'.mp hb
    have hv := read8_reg hr
    exact ⟨mov8_error_of_read (dst_decode_reg8 hb) abs8, mov8_error_of_read (dst_decode_reg8 hb) ind8,
      mov8_error_of_write hv (write8_abs_error he _), mov8_error_of_write hv (write8_ind_error he _)⟩
  · obtain ⟨r, hr⟩ := Option.ne_none_iff_exists'.mp hb
    have hv := read16_reg hr
    exact ⟨mov16_error_of_read (dst_decode_reg16 hb) abs16, mov16_error_of_read (dst_decode_reg16 hb) ind16,
      mov16_error_of_write hv (write16_abs_error he _), mov16_error_of_write hv (write16_ind_error he _)⟩
  · rintro rfl
    exact push_error he
  · rintro rfl
    exact pop_error he
  · rintro hrun rfl
    exact step_error hrun he

end Sys2Proof.Machine
